-- ==== Sys2Proof/Word.lean ====
section
/-! DEFINITION. The words that cross the command interface: the 16-bit command word, the 64-bit
operands and result, and the transaction triple that carries one command
(spec/30_encoding.md R41, R42; bit numbering spec/00_scope.md R7: bit 0 is the least significant). -/

namespace Sys2Proof

/-- An operand `opa`, `opb` or a `result` (R41). -/
abbrev Word64 := BitVec 64

/-- The command word `cmd[15:0]` (R41, R43). -/
abbrev CmdWord := BitVec 16

/-- A field `opcode` or `imm8` of the command word (R43). -/
abbrev Byte := BitVec 8

/-- The command transaction of R42: the host presents one triple `(cmd, opa, opb)`. -/
structure Transaction where
  /-- The command word, `opcode * 256 + imm8` (R44). -/
  cmd : CmdWord
  /-- The first operand port. -/
  opa : Word64
  /-- The second operand port. -/
  opb : Word64
  deriving DecidableEq, Repr

end Sys2Proof
end

