-- ==== Sys2Proof/Config.lean ====
section
/-! DEFINITION. The configuration record of an engine instance (spec/00_scope.md R6) and the one
value the spec leaves unspecified, the register's content after a reset
(spec/70_reset_and_hazards.md R119). -/

namespace Sys2Proof

/-- The configuration `Cfg = (N, C, DEBUG_SEED)` of R6: fixed for the whole life of an instance
(R2), a parameter and not architectural state (spec/10_state.md R15). -/
structure Cfg where
  /-- `N`, the width of the register `state` in bits. -/
  n : Nat
  /-- `C`, the centre-bit position, the only bit the sampler reads. -/
  c : Nat
  /-- `DEBUG_SEED`, the fixed debug seed. -/
  debugSeed : BitVec n
  deriving DecidableEq, Repr

/-- FREE VALUE, DESIGN CHOICE (log entry 3; safe): the content of the `N`-bit register after the
`k`-th reset. R119: it may hold any of the `2^N` values, it need not be the same after two resets,
and a model must not take it to be any value. The constant has no body, so nothing can be proved
about its values. -/
opaque Config.resetState : (k : Nat) → (n : Nat) → BitVec n

end Sys2Proof
end

