-- ==== Sys2Proof/Machine/Params.lean ====
section
/-! DEFINITION. The constants of spec/00_scope.md R6: the two named configurations, and the two
widths common to both. -/

namespace Sys2Proof.Machine

/-- `CFG64`: `N = 64`, `C = 31` (spec/90_conflicts.md C1), `DEBUG_SEED = 2^31` (C2). -/
def cfg64 : Cfg := ⟨64, 31, 0x80000000#64⟩

/-- `CFG32`: `N = 32`, `C = 16`, `DEBUG_SEED = 2^16` (spec/90_conflicts.md C2). -/
def cfg32 : Cfg := ⟨32, 16, 0x00010000#32⟩

/-- `RESULT_W`, the largest legal bit count of `SUINT` (R6, D7). -/
def resultWidth : Nat := 64

/-- `RANGE_W`, the width of the integer drawn by `SRANGE` and `CHOOSE` (R6, D12). -/
def rangeWidth : Nat := 64

end Sys2Proof.Machine
end

