-- ==== Sys2Proof/Machine/State.lean ====
section
/-! DEFINITION. The machine's state as plain data (spec/10_state.md R15 to R25), what passes between
host and block (spec/30_encoding.md R41, R42), and the state after reset (R25,
spec/70_reset_and_hazards.md R118, R119). There is no memory, no program counter and no other
register (R16, R18, R21 to R24). -/

namespace Sys2Proof.Machine

/-- The five faults of spec/60_exceptions.md R99. A fault of a COMMAND is a response, after which the
machine goes on; none of them is a `Fault` of the machine. -/
inductive CommandFault where
  /-- `SRANGE` with `a > b` (R100). -/
  | invalidRange
  /-- `CHOOSE 0` (R101). -/
  | emptyInput
  /-- `SUINT n` with `n > 64` (R102). -/
  | bitWidthExceeded
  /-- A word that decodes to no command (R103). -/
  | illegalCommand
  /-- Any command but `SEED`, `SEEDDBG` while `seeded = 0` (R104). -/
  | notSeeded
  deriving DecidableEq, Repr

/-- The outcome of one command (R98, R99): six values (spec/93_implementation_defined.md U13). -/
inductive Status where
  /-- The command completed as its rule says. -/
  | ok
  /-- The command was rejected and wrote nothing. -/
  | fault (f : CommandFault)
  deriving DecidableEq, Repr

/-- The response that ends a command: `status[3:0]` and `result[63:0]` (R42, R21). -/
structure Response where
  /-- The outcome of this command. -/
  status : Status
  /-- The value the command returns; 0 when it has none or is rejected. -/
  result : Word64
  deriving DecidableEq, Repr

/-- What the host does to the block (R41, spec/70_reset_and_hazards.md R128). -/
inductive HostEvent where
  /-- Present one command, after the response to the one before (R42, R122). -/
  | command (t : Transaction)
  /-- Assert `rst`, or power the block up, between commands (R118, R117). -/
  | reset
  /-- Assert `rst` while the command is executing: the command is abandoned (R118, U16). -/
  | resetDuring (t : Transaction)
  deriving DecidableEq, Repr

/-- Reasons for which the MACHINE stops with a fault. There are none: evolution and sampling are
total functions and every command ends in a response (spec/00_scope.md R12, spec/10_state.md R18).
Log entry 8. -/
inductive Fault where
  deriving DecidableEq, Repr

/-- Reasons for which the model refuses an instruction. -/
inductive Refusal where
  /-- Raised by `exec` for an instruction without a meaning; no instruction is without one, so nothing
  raises it. Safe. -/
  | notModelled (mnemonic : String)
  deriving DecidableEq, Repr

/-- The whole machine. Architectural state is the pair `(state, seeded)` (R15). `cfg` is the parameter
of the instance, which no step writes (log entry 1). `pending`, `responses` and `resets` are the
model's own: the host's side of the interface (log entries 5, 7) and the index of the free value of
R119 (log entries 3, 4). -/
structure State where
  /-- The instance's configuration (R2, R6). -/
  cfg : Cfg
  /-- The `N`-bit register: the ring of cells (R17). -/
  state : BitVec cfg.n
  /-- The 1-bit flag: the instance has been constructed since reset (R19). -/
  seeded : Bool
  /-- What the host is going to do, the next first. -/
  pending : List HostEvent
  /-- The responses given so far, the oldest first. -/
  responses : List Response
  /-- How many resets there have been. -/
  resets : Nat
  deriving DecidableEq, Repr

/-- The machine right after its first reset, in the configuration `c`: `seeded = 0`, the register
unspecified (R25, R118, R119); no command presented and no response given. -/
def State.resetOf (c : Cfg) : State :=
  ⟨c, Config.resetState 0 c.n, false, [], [], 1⟩

/-- The machine right after reset. Which configuration an instance has is open in the spec (D6):
`CFG64` is a DESIGN CHOICE, log entry 2. -/
def State.reset : State := State.resetOf cfg64

end Sys2Proof.Machine
end

