-- ==== Sys2Proof/Machine/Ops.lean ====
section
/-! DEFINITION. The named operations every command is made of: the evolution function
(spec/40_engine.md R57), the sampler `draw` and the two ways to end a command, `respond` and `raise`
(spec/00_scope.md R10), and reset (spec/70_reset_and_hazards.md R118). `raise` is the whole of taking
an exception on this hardware: a fault saves nothing, switches no mode and transfers control nowhere
(spec/60_exceptions.md R109), and there is no return from one (R110). -/

namespace Sys2Proof.Machine

/-! ### The automaton -/

/-- The one-step evolution function `E` of R57 on a ring of `n` cells:
`rotate_left(s,1) XOR (s OR rotate_right(s,1))`, with the rotations of R9. -/
def evolveCells {n : Nat} (s : BitVec n) : BitVec n :=
  s.rotateLeft 1 ^^^ (s ||| s.rotateRight 1)

/-- `r[i] <- b` in a 64-bit value whose bit `i` is still 0 (R10). -/
def placeBit (r : Word64) (i : Nat) (b : Bool) : Word64 :=
  r ||| ((BitVec.ofBool b).setWidth 64 <<< i)

/-- The loop of `draw(k)` in R10 on a register with centre bit `c`: iteration `i` reads the centre bit
into bit `i` of the result, then evolves exactly once. -/
def drawBits {n : Nat} (c : Nat) : (k : Nat) → BitVec n → Word64 × BitVec n
  | 0, s => (0#64, s)
  | i + 1, s =>
    let p := drawBits c i s
    (placeBit p.1 i (p.2.getLsbD c), evolveCells p.2)

/-! ### The register -/

/-- `state <- v`. -/
def setState (s : State) (v : BitVec s.cfg.n) : State := { s with state := v }

/-- `state <- E(state)`. -/
def evolve (s : State) : State := setState s (evolveCells s.state)

/-- `state[C]`, the centre bit of the current state (R59). -/
def centreBit (s : State) : Bool := s.state.getLsbD s.cfg.c

/-- The value `draw(k)` returns (R10). -/
def drawn (k : Nat) (s : State) : Word64 := (drawBits s.cfg.c k s.state).1

/-- The machine after `draw(k)` (R10). -/
def afterDraw (k : Nat) (s : State) : State := setState s (drawBits s.cfg.c k s.state).2

/-! ### Ending a command -/

/-- `respond(st, v)`: every command ends with exactly one response (R10, R42). -/
def respond (st : Status) (v : Word64) (s : State) : State :=
  { s with responses := s.responses ++ [⟨st, v⟩] }

/-- `raise f`: the command ends with `respond(code(f), 0)` having written no state (R10, R105, R106). -/
def raise (f : CommandFault) (s : State) : State := respond (.fault f) 0#64 s

/-- Draw `k` bits and respond with a function of the value drawn: the shape of every sampling command
that passes its checks. -/
def sampleAndRespond (k : Nat) (f : Word64 → Word64) (s : State) : State :=
  respond .ok (f (drawn k s)) (afterDraw k s)

/-- The status code of R99, 4 bits. -/
def statusCode : Status → BitVec 4
  | .ok => 0#4
  | .fault .invalidRange => 1#4
  | .fault .emptyInput => 2#4
  | .fault .bitWidthExceeded => 3#4
  | .fault .illegalCommand => 4#4
  | .fault .notSeeded => 5#4

/-! ### Reset and the host's side -/

/-- Reset (R118): `seeded = 0`, the register takes a value nothing is known about (R119), the
configuration stays, and no response is given. -/
def takeReset (s : State) : State :=
  { s with
    state := Config.resetState s.resets s.cfg.n
    seeded := false
    resets := s.resets + 1 }

/-- The host events that are still to come once the first has been taken. -/
def setPending (s : State) (p : List HostEvent) : State := { s with pending := p }

end Sys2Proof.Machine
end

