-- ==== Sys2Proof/Machine/Flags.lean ====
section
/-! DEFINITION. The one flag, `seeded` (spec/10_state.md R19). There are no condition codes and no
floating-point exception flags, and no command sets a flag as a side effect of its result (R20,
spec/42_float_composer.md R80). -/

namespace Sys2Proof.Machine

/-- `seeded <- 1`, by `SEED` and `SEEDDBG` alone (R19). -/
def markSeeded (s : State) : State := { s with seeded := true }

/-- The check every command but `SEED` and `SEEDDBG` makes before its own: with `seeded = 0` it raises
`NotSeeded` (spec/30_encoding.md R53, spec/60_exceptions.md R104, R107). -/
def whenSeeded (act : State → State) (s : State) : State :=
  if s.seeded then act s else raise .notSeeded s

end Sys2Proof.Machine
end

