-- ==== Sys2Proof/Machine/Operands.lean ====
section
/-! DEFINITION. What the commands make of their operands and of the bits they drew: the seed's
truncation, the operand checks, modulo reduction and the signed view
(spec/30_encoding.md R45, R46; spec/41_integer_composer.md; spec/43_range_and_choice.md). -/

namespace Sys2Proof.Machine

/-- `trunc_N(value)`: `SEED` uses `opa[N-1:0]` and ignores the rest (R89, D19). -/
def seedValue (n : Nat) (value : Word64) : BitVec n := value.setWidth n

/-- `zext_64(state)`, the result of `RDSTATE` (R91). -/
def stateResult {n : Nat} (s : BitVec n) : Word64 := s.setWidth 64

/-- `zext_64(b)`, the result of `SBIT`: 1 for true, 0 for false (R59, D29). -/
def bitResult (b : Bool) : Word64 := (BitVec.ofBool b).setWidth 64

/-- The operand check of `SUINT n`: `n > RESULT_W` (R65, R102). -/
def bitCountExceeds (n : Nat) : Bool := decide (resultWidth < n)

/-- `sext_64(r[31:0])`, the delivery of a signed 32-bit result (R69, D10). -/
def signedResult32 (r : Word64) : Word64 := (r.setWidth 32).signExtend 64

/-- The operand check of `SRANGE a, b`: `a > b`, unsigned (R82, R100). -/
def rangeInvalid (a b : Word64) : Bool := decide (b.toNat < a.toNat)

/-- `m = b - a + 1` in the unbounded integers, `1 <= m <= 2^64`, not reduced to 64 bits (R82, R84). -/
def rangeSize (a b : Word64) : Nat := b.toNat - a.toNat + 1

/-- `a + (y mod m)`: the modulo reduction of R81, R82. -/
def rangeResult (a b y : Word64) : Word64 :=
  BitVec.ofNat 64 (a.toNat + y.toNat % rangeSize a b)

/-- The operand check of `CHOOSE L`: the host's sequence is empty (R83, R101). -/
def sequenceEmpty (len : Word64) : Bool := decide (len.toNat = 0)

/-- `y mod L`, an index in `0 .. L-1` (R83). -/
def chooseResult (len y : Word64) : Word64 := BitVec.ofNat 64 (y.toNat % len.toNat)

end Sys2Proof.Machine
end

