-- ==== Sys2Proof/Machine/Construction.lean ====
section
/-! DEFINITION. Construction and observation: `SEED`, `SEEDDBG`, `RDSTATE`
(spec/44_construction_and_observation.md R89 to R92). -/

namespace Sys2Proof.Machine

/-- `SEED value` (R89): needs no `seeded`; legal at any time, restarts the stream (R92). -/
def execSeed (value : Word64) (s : State) : Host.Outcome State Fault Refusal :=
  .next (respond .ok 0#64 (markSeeded (setState s (seedValue s.cfg.n value))))

/-- `SEEDDBG` (R90): the register takes `DEBUG_SEED`. -/
def execSeeddbg (s : State) : Host.Outcome State Fault Refusal :=
  .next (respond .ok 0#64 (markSeeded (setState s s.cfg.debugSeed)))

/-- `RDSTATE` (R91): a pure read of all `N` bits. -/
def execRdstate (s : State) : Host.Outcome State Fault Refusal :=
  .next (whenSeeded (fun s => respond .ok (stateResult s.state) s) s)

end Sys2Proof.Machine
end

