-- ==== Sys2Proof/Machine/Engine.lean ====
section
/-! DEFINITION. The automaton engine: `EVOLVE` and `SBIT` (spec/40_engine.md R58, R59). -/

namespace Sys2Proof.Machine

/-- `EVOLVE` (R58): advance the state by one step, return nothing. -/
def execEvolve (s : State) : Host.Outcome State Fault Refusal :=
  .next (whenSeeded (fun s => respond .ok 0#64 (evolve s)) s)

/-- `SBIT` (R59): the centre bit of the state before the step, then exactly one evolution. -/
def execSbit (s : State) : Host.Outcome State Fault Refusal :=
  .next (whenSeeded (fun s => respond .ok (bitResult (centreBit s)) (evolve s)) s)

end Sys2Proof.Machine
end

