-- ==== Sys2Proof/Machine/FloatArith.lean ====
section
/-! DEFINITION. The floating-point arithmetic of spec/42_float_composer.md R75: conversion of an integer
and one division, each correctly rounded to nearest with ties to the even significand, and the IEEE 754
bit pattern of the result. The block has no rounding mode, no exception flag, no NaN, infinity,
subnormal or negative value (R80), so none is represented (log entry 10). -/

namespace Sys2Proof.Machine

/-- An IEEE 754 binary format of R75. -/
structure FloatFormat where
  /-- Significant bits `p`: 24 or 53. -/
  prec : Nat
  /-- Exponent bias: 127 or 1023. -/
  bias : Nat
  deriving DecidableEq, Repr

/-- binary32: 24-bit significand, bias 127 (R75). -/
def binary32 : FloatFormat := ⟨24, 127⟩

/-- binary64: 53-bit significand, bias 1023 (R75). -/
def binary64 : FloatFormat := ⟨53, 1023⟩

/-- The non-negative number `mant * 2^exp`. A rounded non-zero number has a significand of exactly
`prec` bits. -/
structure BinFloat where
  /-- The significand; 0 for zero. -/
  mant : Nat
  /-- The exponent of the significand's last bit. -/
  exp : Int
  deriving DecidableEq, Repr

/-- The number of bits of `x`: 0 for 0. -/
def bitLength (x : Nat) : Nat := if x = 0 then 0 else x.log2 + 1

/-- The quotient `num / den * 2^(-e)` as a numerator and a denominator. -/
def scaleQuotient (num den : Nat) : (e : Int) → Nat × Nat
  | .ofNat k => (num, den * 2 ^ k)
  | .negSucc k => (num * 2 ^ (k + 1), den)

/-- The integer nearest to `num / den`, ties to the even one (R75, R78). -/
def roundToEven (num den : Nat) : Nat :=
  let t := num / den
  let rem := num % den
  if den < 2 * rem then t + 1
  else if 2 * rem = den then (if t % 2 = 1 then t + 1 else t)
  else t

/-- The exponent `e` for which `num / den * 2^(-e)` has exactly `p` bits before the point. -/
def quotientExponent (p num den : Nat) : Int :=
  let e : Int := (bitLength num : Int) - (bitLength den : Int) - (p : Int)
  let q := scaleQuotient num den e
  if q.1 / q.2 < 2 ^ p then e else e + 1

/-- A significand that rounding carried to `2^p` is `2^(p-1)` with the next exponent. -/
def renormalise (p : Nat) (f : BinFloat) : BinFloat :=
  if f.mant = 2 ^ p then ⟨2 ^ (p - 1), f.exp + 1⟩ else f

/-- `RN(num / den)`: the float of precision `p` nearest to the quotient, ties to even (R75). -/
def roundQuotient (p num den : Nat) : BinFloat :=
  if num = 0 then ⟨0, 0⟩
  else
    let e := quotientExponent p num den
    let q := scaleQuotient num den e
    renormalise p ⟨roundToEven q.1 q.2, e⟩

/-- `cvt(y) = RN(y)`: the conversion of an integer, steps (1) and (2) of R75. -/
def convert (fmt : FloatFormat) (y : Nat) : BinFloat := roundQuotient fmt.prec y 1

/-- `fdiv(x, y) = RN(x / y)`: one correctly rounded division of two floats, step (3) of R75. -/
def divide (fmt : FloatFormat) (x y : BinFloat) : BinFloat :=
  let q := scaleQuotient x.mant y.mant (y.exp - x.exp)
  roundQuotient fmt.prec q.1 q.2

/-- The IEEE 754 bit pattern of a non-negative number of the format: sign 0, the biased exponent, and the
fraction without its leading bit (R75). -/
def floatBits (fmt : FloatFormat) (f : BinFloat) : Nat :=
  if f.mant = 0 then 0
  else
    (f.exp + (fmt.prec : Int) - 1 + (fmt.bias : Int)).toNat * 2 ^ (fmt.prec - 1)
      + (f.mant - 2 ^ (fmt.prec - 1))

/-- The three steps of R75 for a `w`-bit integer `y`: convert `y`, convert `2^w - 1`, divide. -/
def unitFloat (fmt : FloatFormat) (w y : Nat) : BinFloat :=
  divide fmt (convert fmt y) (convert fmt (2 ^ w - 1))

/-- `SF32`'s result from its 32-bit draw: binary32 in bits 31..0, zero above (R75, R76). -/
def floatResult32 (y : Word64) : Word64 :=
  BitVec.ofNat 64 (floatBits binary32 (unitFloat binary32 32 y.toNat))

/-- `SF64`'s result from its 64-bit draw (R75, R77). -/
def floatResult64 (y : Word64) : Word64 :=
  BitVec.ofNat 64 (floatBits binary64 (unitFloat binary64 64 y.toNat))

end Sys2Proof.Machine
end

