-- ==== Sys2Proof/Machine/FloatComposer.lean ====
section
/-! DEFINITION. The float composer: `SF32`, `SF64` (spec/42_float_composer.md R73 to R77). The value 1.0
can be returned and is not special-cased (R74, spec/90_conflicts.md C5). -/

namespace Sys2Proof.Machine

/-- `SF32` (R76): draw 32 bits, convert, divide by the converted `2^32 - 1`. -/
def execSf32 (s : State) : Host.Outcome State Fault Refusal :=
  .next (whenSeeded (sampleAndRespond 32 floatResult32) s)

/-- `SF64` (R77): draw 64 bits, convert, divide by the converted `2^64 - 1`. -/
def execSf64 (s : State) : Host.Outcome State Fault Refusal :=
  .next (whenSeeded (sampleAndRespond 64 floatResult64) s)

end Sys2Proof.Machine
end

