-- ==== Sys2Proof/Machine/IntegerComposer.lean ====
section
/-! DEFINITION. The integer composer: `SUINT`, `SU8`, `SU32`, `SU64`, `SI32`, `SI64`
(spec/41_integer_composer.md R64 to R70). -/

namespace Sys2Proof.Machine

/-- `SUINT n` (R65): `n > 64` raises `BitWidthExceeded` before any sample; else `draw(n)`. -/
def execSuint (n : Nat) (s : State) : Host.Outcome State Fault Refusal :=
  .next (whenSeeded
    (fun s => if bitCountExceeds n then raise .bitWidthExceeded s else sampleAndRespond n id s) s)

/-- `SU8` (R66): `draw(8)`. -/
def execSu8 (s : State) : Host.Outcome State Fault Refusal :=
  .next (whenSeeded (sampleAndRespond 8 id) s)

/-- `SU32` (R67): `draw(32)`. -/
def execSu32 (s : State) : Host.Outcome State Fault Refusal :=
  .next (whenSeeded (sampleAndRespond 32 id) s)

/-- `SU64` (R68): `draw(64)`. -/
def execSu64 (s : State) : Host.Outcome State Fault Refusal :=
  .next (whenSeeded (sampleAndRespond 64 id) s)

/-- `SI32` (R69): `draw(32)`, the 32 bits sign-extended. -/
def execSi32 (s : State) : Host.Outcome State Fault Refusal :=
  .next (whenSeeded (sampleAndRespond 32 signedResult32) s)

/-- `SI64` (R70): `draw(64)`, the same bits as `SU64`. -/
def execSi64 (s : State) : Host.Outcome State Fault Refusal :=
  .next (whenSeeded (sampleAndRespond 64 id) s)

end Sys2Proof.Machine
end

