-- ==== Sys2Proof/Machine/RangeChoice.lean ====
section
/-! DEFINITION. Bounded range and uniform choice: `SRANGE`, `CHOOSE` (spec/43_range_and_choice.md R81 to
R86). The operand check is complete before the first sample; a command that passes it draws exactly 64
bits, once, whatever the range (R85). -/

namespace Sys2Proof.Machine

/-- `SRANGE a, b` (R82). -/
def execSrange (a b : Word64) (s : State) : Host.Outcome State Fault Refusal :=
  .next (whenSeeded
    (fun s =>
      if rangeInvalid a b then raise .invalidRange s
      else sampleAndRespond rangeWidth (rangeResult a b) s) s)

/-- `CHOOSE L` (R83): the index; the element is the host's to fetch (D15). -/
def execChoose (len : Word64) (s : State) : Host.Outcome State Fault Refusal :=
  .next (whenSeeded
    (fun s =>
      if sequenceEmpty len then raise .emptyInput s
      else sampleAndRespond rangeWidth (chooseResult len) s) s)

end Sys2Proof.Machine
end

