-- ==== Sys2Proof/Syntax.lean ====
section
/-! DEFINITION. The fifteen commands of the opcode map (spec/30_encoding.md R47), each with the
operands it uses and no others (R46). -/

namespace Sys2Proof

/-- One constructor per row of spec/opcode_table.json, in the table's order. -/
inductive Instr where
  /-- `SEED value`: construct the engine from an explicit seed (R89). -/
  | seed (value : Word64)
  /-- `SEEDDBG`: construct the engine from the fixed debug seed (R90). -/
  | seeddbg
  /-- `RDSTATE`: read the whole state without changing it (R91). -/
  | rdstate
  /-- `EVOLVE`: advance the state by one step, return nothing (R58). -/
  | evolve
  /-- `SBIT`: sample the centre bit, then evolve once (R59). -/
  | sbit
  /-- `SUINT n`: compose an unsigned integer of `n` bits; `n` is the count in `imm8` (R45, R65). -/
  | suint (n : Nat)
  /-- `SU8` (R66). -/
  | su8
  /-- `SU32` (R67). -/
  | su32
  /-- `SU64` (R68). -/
  | su64
  /-- `SI32` (R69). -/
  | si32
  /-- `SI64` (R70). -/
  | si64
  /-- `SF32` (R76). -/
  | sf32
  /-- `SF64` (R77). -/
  | sf64
  /-- `SRANGE a, b`: an integer in the inclusive range `a..b` (R82). -/
  | srange (a b : Word64)
  /-- `CHOOSE L`: an index into a sequence of length `L` (R83). -/
  | choose (len : Word64)
  deriving DecidableEq, Repr

end Sys2Proof
end

