-- ==== Sys2Proof/Machine/Dispatch.lean ====
section
/-! DEFINITION. One arm per command: the execution of a decoded command (spec/30_encoding.md R53). -/

namespace Sys2Proof.Machine

def exec (i : Instr) (s : State) : Host.Outcome State Fault Refusal :=
  match i with
  | .seed v => Sys2Proof.Machine.execSeed v s
  | .seeddbg => Sys2Proof.Machine.execSeeddbg s
  | .rdstate => Sys2Proof.Machine.execRdstate s
  | .evolve => Sys2Proof.Machine.execEvolve s
  | .sbit => Sys2Proof.Machine.execSbit s
  | .suint n => Sys2Proof.Machine.execSuint n s
  | .su8 => Sys2Proof.Machine.execSu8 s
  | .su32 => Sys2Proof.Machine.execSu32 s
  | .su64 => Sys2Proof.Machine.execSu64 s
  | .si32 => Sys2Proof.Machine.execSi32 s
  | .si64 => Sys2Proof.Machine.execSi64 s
  | .sf32 => Sys2Proof.Machine.execSf32 s
  | .sf64 => Sys2Proof.Machine.execSf64 s
  | .srange a b => Sys2Proof.Machine.execSrange a b s
  | .choose len => Sys2Proof.Machine.execChoose len s

end Sys2Proof.Machine
end

