-- ==== Sys2Proof/WellFormed.lean ====
section
/-! DEFINITION. Which instruction terms have an encoding, and which configuration records are
configurations (spec/30_encoding.md R45, spec/00_scope.md R6). -/

namespace Sys2Proof

/-- An instruction term that a command word can carry: the bit count of `SUINT` is an `imm8`,
`0..255` (R45); every other operand is a whole 64-bit port (R46). -/
def Instr.wf : Instr → Bool
  | .suint n => decide (n < 256)
  | .seed _ => true
  | .seeddbg => true
  | .rdstate => true
  | .evolve => true
  | .sbit => true
  | .su8 => true
  | .su32 => true
  | .su64 => true
  | .si32 => true
  | .si64 => true
  | .sf32 => true
  | .sf64 => true
  | .srange _ _ => true
  | .choose _ => true

/-- The records R6 asks a model to be written for: "any record with `N` even, `N >= 2` and
`C < N`". -/
def Cfg.wf (c : Cfg) : Bool :=
  decide (c.n % 2 = 0) && decide (2 ≤ c.n) && decide (c.c < c.n)

end Sys2Proof
end

