-- ==== Sys2Proof/Decode.lean ====
section
/-! DEFINITION. Decoding a transaction, the opcode map as a table, and the encoder
(spec/30_encoding.md R43 to R50, R51). Decoding is total, needs no state and rejects by name. -/

namespace Sys2Proof

/-- Why a command word encodes no command. Both reasons are the one `ILLEGAL` of R50. -/
inductive DecodeError where
  /-- The `opcode` field is not one of the fifteen values of R47 (R48). -/
  | unknownOpcode (op : Byte)
  /-- A legal opcode other than `SUINT`'s with `imm8 != 0` (R49). -/
  | reservedImm8 (op imm : Byte)
  deriving DecidableEq, Repr

/-- `opcode = cmd[15:8]` (R43). -/
def opcodeField (w : CmdWord) : Byte := w.extractLsb' 8 8

/-- `imm8 = cmd[7:0]` (R43). -/
def imm8Field (w : CmdWord) : Byte := w.extractLsb' 0 8

/-- `cmd = opcode * 256 + imm8` (R44). -/
def commandWord (op imm : Byte) : CmdWord := op ++ imm

/-- The command of an opcode whose `imm8` is reserved (every row of R47 but `SUINT`), with the
operands it takes from the ports (R46). -/
def bareCommand (op : Byte) (opa opb : Word64) : Option Instr :=
  if op = 0x01#8 then some (.seed opa)
  else if op = 0x02#8 then some .seeddbg
  else if op = 0x03#8 then some .rdstate
  else if op = 0x10#8 then some .evolve
  else if op = 0x11#8 then some .sbit
  else if op = 0x21#8 then some .su8
  else if op = 0x22#8 then some .su32
  else if op = 0x23#8 then some .su64
  else if op = 0x24#8 then some .si32
  else if op = 0x25#8 then some .si64
  else if op = 0x30#8 then some .sf32
  else if op = 0x31#8 then some .sf64
  else if op = 0x40#8 then some (.srange opa opb)
  else if op = 0x41#8 then some (.choose opa)
  else none

/-- `decode` of R50, with the operands the command uses (R46) attached. -/
def decode (t : Transaction) : Except DecodeError Instr :=
  let op := opcodeField t.cmd
  let imm := imm8Field t.cmd
  if op = 0x20#8 then .ok (.suint imm.toNat)
  else
    match bareCommand op t.opa t.opb with
    | none => .error (.unknownOpcode op)
    | some i => if imm = 0#8 then .ok i else .error (.reservedImm8 op imm)

/-- Does the word encode a command? -/
def legal (t : Transaction) : Bool :=
  match decode t with
  | .ok _ => true
  | .error _ => false

/-! ### The opcode map as a table -/

/-- A row of the opcode map: a word `w` encodes the command exactly when `w AND mask = match`. -/
structure OpcodeRow where
  /-- The row's mnemonic. -/
  mnemonic : String
  /-- The column `match`. -/
  pattern : CmdWord
  /-- The column `mask`. -/
  mask : CmdWord
  deriving DecidableEq, Repr

/-- The table of R47, row by row. -/
def opcodeTable : List OpcodeRow :=
  [⟨"SEED", 0x0100#16, 0xFFFF#16⟩,
   ⟨"SEEDDBG", 0x0200#16, 0xFFFF#16⟩,
   ⟨"RDSTATE", 0x0300#16, 0xFFFF#16⟩,
   ⟨"EVOLVE", 0x1000#16, 0xFFFF#16⟩,
   ⟨"SBIT", 0x1100#16, 0xFFFF#16⟩,
   ⟨"SUINT", 0x2000#16, 0xFF00#16⟩,
   ⟨"SU8", 0x2100#16, 0xFFFF#16⟩,
   ⟨"SU32", 0x2200#16, 0xFFFF#16⟩,
   ⟨"SU64", 0x2300#16, 0xFFFF#16⟩,
   ⟨"SI32", 0x2400#16, 0xFFFF#16⟩,
   ⟨"SI64", 0x2500#16, 0xFFFF#16⟩,
   ⟨"SF32", 0x3000#16, 0xFFFF#16⟩,
   ⟨"SF64", 0x3100#16, 0xFFFF#16⟩,
   ⟨"SRANGE", 0x4000#16, 0xFFFF#16⟩,
   ⟨"CHOOSE", 0x4100#16, 0xFFFF#16⟩]

/-- Does the word belong to the row? -/
def OpcodeRow.covers (r : OpcodeRow) (w : CmdWord) : Bool :=
  decide (w &&& r.mask = r.pattern)

/-- The mnemonic of a command (R47). -/
def mnemonicOf : Instr → String
  | .seed _ => "SEED"
  | .seeddbg => "SEEDDBG"
  | .rdstate => "RDSTATE"
  | .evolve => "EVOLVE"
  | .sbit => "SBIT"
  | .suint _ => "SUINT"
  | .su8 => "SU8"
  | .su32 => "SU32"
  | .su64 => "SU64"
  | .si32 => "SI32"
  | .si64 => "SI64"
  | .sf32 => "SF32"
  | .sf64 => "SF64"
  | .srange _ _ => "SRANGE"
  | .choose _ => "CHOOSE"

/-! ### The encoder -/

/-- The transaction of an instruction: its command word (R47), and each operand on its port (R46);
an operand the command does not use is assembled as 0 (R51). -/
def encode : Instr → Transaction
  | .seed v => ⟨0x0100#16, v, 0#64⟩
  | .seeddbg => ⟨0x0200#16, 0#64, 0#64⟩
  | .rdstate => ⟨0x0300#16, 0#64, 0#64⟩
  | .evolve => ⟨0x1000#16, 0#64, 0#64⟩
  | .sbit => ⟨0x1100#16, 0#64, 0#64⟩
  | .suint n => ⟨commandWord 0x20#8 (BitVec.ofNat 8 n), 0#64, 0#64⟩
  | .su8 => ⟨0x2100#16, 0#64, 0#64⟩
  | .su32 => ⟨0x2200#16, 0#64, 0#64⟩
  | .su64 => ⟨0x2300#16, 0#64, 0#64⟩
  | .si32 => ⟨0x2400#16, 0#64, 0#64⟩
  | .si64 => ⟨0x2500#16, 0#64, 0#64⟩
  | .sf32 => ⟨0x3000#16, 0#64, 0#64⟩
  | .sf64 => ⟨0x3100#16, 0#64, 0#64⟩
  | .srange a b => ⟨0x4000#16, a, b⟩
  | .choose l => ⟨0x4100#16, l, 0#64⟩

/-! ### The host's view of a word of the opcode table -/

/-- The transaction whose bits are the low `nbits` bits of `w`: the command word is bits 15..0, as
spec/opcode_table.json numbers it; the operand ports, to which the table gives no bits, are counted
on from there (`opa` bits 79..16, `opb` bits 143..80). DESIGN CHOICE, log entry 15. -/
def transactionOfBits (nbits w : Nat) : Transaction :=
  let v := w % 2 ^ nbits
  ⟨BitVec.ofNat 16 v, BitVec.ofNat 64 (v >>> 16), BitVec.ofNat 64 (v >>> 80)⟩

/-- What the decoder reads from the instruction whose bits are `w`. -/
def decodeTableWord (nbits w : Nat) : Option Instr :=
  match decode (transactionOfBits nbits w) with
  | .ok i => some i
  | .error _ => none

end Sys2Proof
end

