-- ==== Sys2Proof/Machine/HostSide.lean ====
section
/-! DEFINITION. What the step does around `exec` (the next host event, the illegal word), and the
host-side recipes the spec records at the boundary: assembler listings and pseudo-instructions
(spec/30_encoding.md R51, R52), clone, time seed, display string and the adapter
(spec/44_construction_and_observation.md R94 to R97). The recipes are the host's, not the block's: no
step uses them (log entry 16). -/

namespace Sys2Proof.Machine

/-- The next host event and the machine with the events after it; none when the host does nothing. -/
def takeEvent (s : State) : Option (HostEvent × State) :=
  match s.pending with
  | [] => none
  | e :: rest => some (e, setPending s rest)

/-- A word that decodes to no command (R48, R49, R103). -/
def rejectIllegal (s : State) : State := raise .illegalCommand s

/-- The host event that presents an instruction. -/
def present (i : Instr) : HostEvent := .command (encode i)

/-! ### Recipes -/

/-- The pseudo-instructions of R52 that are sequences of commands to one instance. -/
inductive Pseudo where
  /-- `SBOOL`, a second name of `SBIT`. -/
  | sbool
  /-- `NEXTU32`, the adapter's "produce next 32-bit value". -/
  | nextU32
  /-- `NEXTU64`, the adapter's "produce next 64-bit value". -/
  | nextU64
  /-- `FILLBYTES k`, the adapter's "fill a byte buffer". -/
  | fillBytes (k : Nat)
  deriving DecidableEq, Repr

/-- The expansion of a pseudo-instruction (R52, R97). -/
def expand : Pseudo → List Instr
  | .sbool => [.sbit]
  | .nextU32 => [.su32]
  | .nextU64 => [.su64]
  | .fillBytes k => List.replicate k .su8

/-- `CLONE`, and saving a point of the stream (R52, R94): the command to the destination once `RDSTATE`
on the source has answered `v`. -/
def cloneCommand (v : Word64) : Instr := .seed v

/-- Time-based seeding (R95): the whole seconds `t` since the host's epoch, squared, in a `SEED`. DESIGN
CHOICE, log entry 20: `t` is of any width and the square is taken in unbounded arithmetic; R95 gives
neither, and says that any wrap at `N` bits or more gives the same seed. -/
def timeSeedCommand (t : Nat) : Instr := .seed (BitVec.ofNat 64 (t * t))

/-- The characters of the display string (R96): `k`-th character for bit `N-1-k`; `glyph` is the host's
parameter `GLYPH` (D31). -/
def displayString {n : Nat} (glyph : Char) (v : BitVec n) : List Char :=
  (List.range n).map fun k => if v.getLsbD (n - 1 - k) then glyph else ' '

/-- An instruction in the assembler syntax of R51, numbers in decimal. -/
def assembly (i : Instr) : String :=
  match i with
  | .seed v => mnemonicOf i ++ " " ++ toString v.toNat
  | .suint n => mnemonicOf i ++ " " ++ toString n
  | .srange a b => mnemonicOf i ++ " " ++ toString a.toNat ++ ", " ++ toString b.toNat
  | .choose len => mnemonicOf i ++ " " ++ toString len.toNat
  | .seeddbg | .rdstate | .evolve | .sbit | .su8 | .su32 | .su64 | .si32 | .si64 | .sf32 | .sf64 =>
    mnemonicOf i

end Sys2Proof.Machine
end

