-- ==== Sys2Proof/Machine/Step.lean ====
section
/-! DEFINITION. One step of the machine: the next host event, wholly (spec/00_scope.md R12,
spec/30_encoding.md R42, R53). -/

namespace Sys2Proof.Machine

/-- `step`: a presented command is decoded and executed, or rejected as illegal (R53); a reset resets
(R118), and one that arrives during a command abandons it (R118). When the host does nothing, nothing
happens (spec/60_exceptions.md R108; log entry 6). -/
def step (s : State) : Host.Outcome State Fault Refusal :=
  match takeEvent s with
  | none => .next s
  | some (.reset, t) => .next (takeReset t)
  | some (.resetDuring _, t) => .next (takeReset t)
  | some (.command c, t) =>
    match decode c with
    | .ok i => exec i t
    | .error _ => .next (rejectIllegal t)

/-- The machine whose host presents, next, the instruction with the bits `w` (log entry 5). -/
def State.withFetchWord (s : State) (nbits w : Nat) : State :=
  setPending s (.command (transactionOfBits nbits w) :: s.pending)

end Sys2Proof.Machine
end

