-- ==== Sys2Proof/Safety.lean ====
section
/-! DEFINITION. The terms the claims are stated in: the sampled stream, the cell rule, what a well-formed
response and a good state are, what a command costs, and the reading of a float's bit pattern. -/

namespace Sys2Proof

open Machine

/-! ### The automaton -/

/-- The truth table's `l XOR (c OR r)` for cell `i` of the ring (spec/40_engine.md R57, R60), with the
neighbours of R56: cell `i-1` on the left, cell `i+1` on the right, modulo `n`. -/
def cellRule {n : Nat} (s : BitVec n) (i : Nat) : Bool :=
  s.getLsbD ((i + n - 1) % n) ^^ (s.getLsbD i || s.getLsbD ((i + 1) % n))

/-- The register `k` steps on: `E^k(s)` (spec/00_scope.md R10). -/
def evolved {n : Nat} (k : Nat) (s : BitVec n) : BitVec n := evolveCells^[k] s

/-- Every other cell set: the odd ones, or the even ones (spec/40_engine.md R61 (b)). -/
def Alternating {n : Nat} (odd : Bool) (s : BitVec n) : Prop :=
  ∀ i, i < n → s.getLsbD i = (decide (i % 2 = 1) == odd)

/-- The stream of R14: sample `k` is the centre bit of the `k`-th successive state. -/
def sample (s : State) (k : Nat) : Bool := (evolved k s.state).getLsbD s.cfg.c

/-- `y` is what a draw of `k` bits from `s` composes: bit `i` is sample `i` for `i < k` and 0 above
(spec/41_integer_composer.md R64). -/
def ComposedFrom (s : State) (k : Nat) (y : Word64) : Prop :=
  ∀ i, y.getLsbD i = (decide (i < k) && sample s i)

/-! ### Commands -/

/-- `SEED` and `SEEDDBG`, the commands that need no `seeded` (R104). -/
def isSeeding : Instr → Bool
  | .seed _ | .seeddbg => true
  | .rdstate | .evolve | .sbit | .suint _ | .su8 | .su32 | .su64 | .si32 | .si64 | .sf32 | .sf64
  | .srange _ _ | .choose _ => false

/-- How many evolutions a command performs when it is not rejected (spec/70_reset_and_hazards.md R126). -/
def evolutions : Instr → Nat
  | .seed _ | .seeddbg | .rdstate => 0
  | .evolve | .sbit => 1
  | .suint n => n
  | .su8 => 8
  | .su32 | .si32 | .sf32 => 32
  | .su64 | .si64 | .sf64 | .srange _ _ | .choose _ => 64

/-- The command's own operand fault, if its operands deserve one (spec/60_exceptions.md R99). -/
def operandFault : Instr → Option CommandFault
  | .suint n => if 64 < n then some .bitWidthExceeded else none
  | .srange a b => if b < a then some .invalidRange else none
  | .choose len => if len = 0#64 then some .emptyInput else none
  | .seed _ | .seeddbg | .rdstate | .evolve | .sbit | .su8 | .su32 | .su64 | .si32 | .si64 | .sf32
  | .sf64 => none

/-- The word `w` encodes `i` whatever the operands, and no other word with its opcode is legal: the
`Encoding` line of a command rule whose `imm8` is reserved (R47, R49). -/
def EncodedBy (w : CmdWord) (i : Word64 → Word64 → Instr) : Prop :=
  (∀ opa opb, decode ⟨w, opa, opb⟩ = .ok (i opa opb)) ∧
  ∀ v : CmdWord, opcodeField v = opcodeField w → v ≠ w → ∀ opa opb, legal ⟨v, opa, opb⟩ = false

/-- Before construction the command answers `NotSeeded` and nothing else changes (R104, R105, R106). -/
def RejectsUnseeded (i : Instr) : Prop :=
  ∀ s : State, s.seeded = false →
    exec i s = .next { s with responses := s.responses ++ [⟨.fault .notSeeded, 0#64⟩] }

/-- After construction the command draws `k` bits `y`, answers `f y` and leaves the register `k` steps
on; nothing else changes. -/
def DrawsAndAnswers (i : Instr) (k : Nat) (f : Word64 → Word64 → Prop) : Prop :=
  ∀ s : State, s.seeded = true → ∃ y r : Word64, ComposedFrom s k y ∧ f y r ∧
    exec i s = .next { s with state := evolved k s.state, responses := s.responses ++ [⟨.ok, r⟩] }

/-- After construction the command answers the fault `f` and nothing else changes. -/
def RejectsSeeded (i : Instr) (f : CommandFault) : Prop :=
  ∀ s : State, s.seeded = true →
    exec i s = .next { s with responses := s.responses ++ [⟨.fault f, 0#64⟩] }

/-! ### Good states -/

/-- A response as R106 has it: the result of a rejected command is 0. -/
def responseWf (r : Response) : Prop := r.status ≠ .ok → r.result = 0#64

/-- The invariant of the machine: its configuration is one of R6, and no response carries a value beside
a fault (R106). -/
def Inv (s : State) : Prop := s.cfg.wf = true ∧ ∀ r ∈ s.responses, responseWf r

/-- A step that does not stop (spec/00_scope.md R12: every command ends in a response). -/
def Goes (s : State) : Prop := ∃ t, step s = .next t

/-- `k` steps of the machine (spec/70_reset_and_hazards.md R129). -/
def runSteps (k : Nat) (s : State) : Host.Outcome State Fault Refusal := Host.Core.run core k s

/-! ### Floats -/

/-- The rational number of a bit pattern with sign 0 that is zero or normal (R75). -/
def floatValue (fmt : FloatFormat) (bits : Nat) : ℚ :=
  if bits = 0 then 0
  else
    (2 ^ (fmt.prec - 1) + bits % 2 ^ (fmt.prec - 1) : ℕ) *
      (2 : ℚ) ^ ((bits / 2 ^ (fmt.prec - 1) : ℕ) - (fmt.bias : Int) - (fmt.prec - 1 : Int))

/-- The rational number of a significand and exponent. -/
def binFloatValue (f : BinFloat) : ℚ := (f.mant : ℚ) * (2 : ℚ) ^ f.exp

/-- `f` is the number of precision `p` nearest to `x`, and of two nearest the one with the even
significand: the rounding of spec/42_float_composer.md R75. -/
def IsNearestEven (p : Nat) (x : ℚ) (f : BinFloat) : Prop :=
  (f.mant = 0 ∨ (2 ^ (p - 1) ≤ f.mant ∧ f.mant < 2 ^ p)) ∧
  ∀ (m : Nat) (e : Int), m < 2 ^ p →
    |x - binFloatValue f| ≤ |x - binFloatValue ⟨m, e⟩| ∧
    (|x - binFloatValue f| = |x - binFloatValue ⟨m, e⟩| →
      binFloatValue f = binFloatValue ⟨m, e⟩ ∨ f.mant % 2 = 0)

/-- `RN_p(y)` as spec/42_float_composer.md R78 writes it: the integer `y` rounded to `p` significant bits,
nearest, ties to even. -/
def roundInteger (p y : Nat) : Nat :=
  if y < 2 ^ p then y
  else
    let sh := y.log2 + 1 - p
    let t := y / 2 ^ sh
    let rem := y % 2 ^ sh
    let half := 2 ^ (sh - 1)
    if half < rem ∨ (rem = half ∧ t % 2 = 1) then (t + 1) * 2 ^ sh else t * 2 ^ sh

end Sys2Proof
end

