-- ==== Sys2Proof/Certificates/Slice0/Obligations.lean ====
section
/-! DEFINITION. The statements for the provers. Every statement over all states is over every
configuration, since the configuration is a field of the state (log entry 1). `pending`, `responses` and
`resets` are the model's record of the host's side (log entries 4, 5, 7). -/

open Sys2Proof Sys2Proof.Machine

/-! ### Encoding -/

/-- The encoder loses no bit of an instruction (derived from 30_encoding.md sections 2 to 4; that an
unused operand is assembled as 0 is R51). -/
def Obligations.DecodeEncodeRoundTrip : Prop :=
  ∀ i : Instr, i.wf = true → decode (encode i) = .ok i

/-- R46: which command reads which operand port; an operand not listed is ignored, whatever its value. -/
def Obligations.OperandsComeFromTheirPortsAlone : Prop :=
  (∀ (t : Transaction) (i : Instr), decode t = .ok i →
    (∀ v, i = .seed v → v = t.opa) ∧ (∀ a b, i = .srange a b → a = t.opa ∧ b = t.opb) ∧
    (∀ len, i = .choose len → len = t.opa)) ∧
  (∀ (cmd : CmdWord) (opa opb opa' opb' : Word64),
    (cmd = 0x0100#16 ∨ cmd = 0x4000#16 ∨ cmd = 0x4100#16 → opa = opa') →
    (cmd = 0x4000#16 → opb = opb') →
    decode ⟨cmd, opa, opb⟩ = decode ⟨cmd, opa', opb'⟩) ∧
  (∀ (s : State) (v : Word64), ∃ t : State,
    exec (.seed v) s = .next t ∧
    t.cfg = s.cfg ∧ ∀ i, t.state.getLsbD i = (decide (i < s.cfg.n) && v.getLsbD i))

/-- R47: a word encodes the command of a row exactly when `w AND mask = match`, and the rows are
disjoint. -/
def Obligations.TableRowsDecideDecoding : Prop :=
  (∀ (t : Transaction) (row : OpcodeRow), row ∈ opcodeTable →
    ((∃ i, decode t = .ok i ∧ mnemonicOf i = row.mnemonic) ↔ t.cmd &&& row.mask = row.pattern)) ∧
  (∀ (w : CmdWord) (r₁ r₂ : OpcodeRow), r₁ ∈ opcodeTable → r₂ ∈ opcodeTable →
    r₁.covers w = true → r₂.covers w = true → r₁ = r₂)

/-- R48, R49: a word whose opcode is none of the fifteen, or whose reserved `imm8` is not zero, is
answered `IllegalCommand` with result 0 and changes nothing, seeded or not. -/
def Obligations.IllegalWordsAreRejected : Prop :=
  ∀ (s : State) (t : Transaction) (rest : List HostEvent), s.pending = .command t :: rest →
    (opcodeField t.cmd ∉ [0x01#8, 0x02#8, 0x03#8, 0x10#8, 0x11#8, 0x20#8, 0x21#8, 0x22#8, 0x23#8,
        0x24#8, 0x25#8, 0x30#8, 0x31#8, 0x40#8, 0x41#8] ∨
      (opcodeField t.cmd ≠ 0x20#8 ∧ imm8Field t.cmd ≠ 0#8)) →
    step s = .next { s with
      pending := rest
      responses := s.responses ++ [⟨.fault .illegalCommand, 0#64⟩] }

/-- Of the 65536 words 270 are legal, whatever the operands, counted opcode by opcode and immediate by
immediate; every word is one of these pairs (30_encoding.md section 5, the spec's own count). -/
def Obligations.LegalWordsNumber270 : Prop :=
  (∀ opa opb : Word64,
    ((List.range 256).map fun op => ((List.range 256).filter fun imm =>
      legal ⟨commandWord (BitVec.ofNat 8 op) (BitVec.ofNat 8 imm), opa, opb⟩).length).sum = 270) ∧
  (∀ w : CmdWord, ∃ op imm : Nat, op < 256 ∧ imm < 256 ∧
    w = commandWord (BitVec.ofNat 8 op) (BitVec.ofNat 8 imm))

/-- A few words written out bit by bit from 30_encoding.md's format picture and opcode map. The spec has
one `ILLEGAL` (R50): the name `reservedImm8` and its two fields in the last clause are the model's choice,
log entry 17. -/
def Obligations.HandWrittenWordsDecode : Prop :=
  decode ⟨0b0000000100000000#16, 7#64, 9#64⟩ = .ok (.seed 7#64) ∧
  decode ⟨0b0001000000000000#16, 7#64, 9#64⟩ = .ok .evolve ∧
  decode ⟨0b0010000000001100#16, 7#64, 9#64⟩ = .ok (.suint 12) ∧
  decode ⟨0b0010010100000000#16, 7#64, 9#64⟩ = .ok .si64 ∧
  decode ⟨0b0011000000000000#16, 7#64, 9#64⟩ = .ok .sf32 ∧
  decode ⟨0b0100000000000000#16, 7#64, 9#64⟩ = .ok (.srange 7#64 9#64) ∧
  decode ⟨0b0001000100000001#16, 7#64, 9#64⟩ = .error (.reservedImm8 0x11#8 0x01#8)

/-! ### The step -/

/-- R53: a presented command that decodes is executed by its meaning, one that does not raises
`IllegalCommand`, and every command but `SEED` and `SEEDDBG` raises `NotSeeded` while `seeded = 0`.
The step also takes the event off the host's list (log entry 5). -/
def Obligations.StepRunsDecodedInstruction : Prop :=
  ∀ (s : State) (t : Transaction) (rest : List HostEvent), s.pending = .command t :: rest →
    (∀ i, decode t = .ok i → step s = exec i { s with pending := rest }) ∧
    (∀ e, decode t = .error e → step s = .next { s with
      pending := rest
      responses := s.responses ++ [⟨.fault .illegalCommand, 0#64⟩] }) ∧
    (∀ i, decode t = .ok i → isSeeding i = false → s.seeded = false → step s = .next { s with
      pending := rest
      responses := s.responses ++ [⟨.fault .notSeeded, 0#64⟩] })

/-- R107: exactly one fault is reported, `IllegalCommand` before `NotSeeded` before the command's own
operand fault; and without any of them the status is `OK`. -/
def Obligations.FaultPriority : Prop :=
  ∀ (s : State) (t : Transaction) (rest : List HostEvent), s.pending = .command t :: rest →
    ∃ u r, step s = .next u ∧ u.responses = s.responses ++ [r] ∧
      (legal t = false → r.status = .fault .illegalCommand) ∧
      (∀ i, decode t = .ok i →
        r.status =
          if isSeeding i = false ∧ s.seeded = false then .fault .notSeeded
          else match operandFault i with
            | some f => .fault f
            | none => .ok)

/-- Nothing happens between commands (60_exceptions.md section 2, "nothing happens between commands"; the
empty list of host events is log entries 5 and 6). -/
def Obligations.IdleHostChangesNothing : Prop :=
  ∀ s : State, s.pending = [] → step s = .next s

/-- R118: reset, also one that arrives while a command is executing, leaves `seeded = 0`, the register
at some value, the configuration unchanged, and gives no response; and it is the only way `seeded`
returns to 0. -/
def Obligations.ResetUnseedsAndNothingElseDoes : Prop :=
  (∀ (s : State) (rest : List HostEvent),
    (s.pending = .reset :: rest ∨ ∃ t, s.pending = .resetDuring t :: rest) →
    ∃ v, step s = .next { s with
      state := v
      seeded := false
      pending := rest
      resets := s.resets + 1 }) ∧
  (∀ s t : State, s.seeded = true → step s = .next t → t.seeded = false →
    ∃ rest, s.pending = .reset :: rest ∨ ∃ c, s.pending = .resetDuring c :: rest)

/-- R19: `seeded` is set by every successful `SEED` and `SEEDDBG`, cleared by reset, and written by nothing
else; with `seeded = 0` every other command faults with `NotSeeded` and changes nothing. -/
def Obligations.SeededFlagLifecycle : Prop :=
  (∀ s t : State, step s = .next t → t.seeded =
    match s.pending with
    | [] => s.seeded
    | .reset :: _ => false
    | .resetDuring _ :: _ => false
    | .command c :: _ => s.seeded || (c.cmd == 0x0100#16) || (c.cmd == 0x0200#16)) ∧
  (∀ i : Instr, isSeeding i = false → RejectsUnseeded i)

/-- The reset state of any configuration is unseeded and has that configuration (10_state.md section 7);
no event waits and no response has been given (log entries 5, 7), and `State.reset` is CFG64's (log
entry 2). -/
def Obligations.ResetStateIsUnseeded : Prop :=
  (∀ c : Cfg, (State.resetOf c).seeded = false ∧ (State.resetOf c).cfg = c ∧
    (State.resetOf c).pending = [] ∧ (State.resetOf c).responses = []) ∧
  State.reset.cfg.n = 64 ∧ State.reset.cfg.c = 31 ∧ State.reset.seeded = false

/-- No step of the machine stops it: `step` is total (00_scope.md section 5). -/
def Obligations.EveryStepGoesOn : Prop := ∀ s : State, Goes s

/-- R42: one command, one response, always; and the machine is ready for the next. -/
def Obligations.OneCommandOneResponse : Prop :=
  ∀ (s : State) (t : Transaction) (rest : List HostEvent), s.pending = .command t :: rest →
    ∃ v b r, step s = .next { s with
      state := v
      seeded := b
      pending := rest
      responses := s.responses ++ [r] }

/-- R105, R106: if the status is not `OK`, `state` and `seeded` are what they were and the result is 0. -/
def Obligations.RejectedCommandsWriteNothing : Prop :=
  ∀ (s u : State) (t : Transaction) (rest : List HostEvent) (r : Response),
    s.pending = .command t :: rest → step s = .next u → u.responses = s.responses ++ [r] →
    r.status ≠ .ok →
      r.result = 0#64 ∧ u = { s with pending := rest, responses := s.responses ++ [r] }

/-- The invariant of the machine is kept by every step, from every state. -/
def Obligations.InvariantKeptByEveryStep : Prop :=
  ∀ s t : State, Inv s → step s = .next t → Inv t

/-- The reset state of every configuration of R6 meets the invariant. -/
def Obligations.InvariantAtReset : Prop :=
  (∀ c : Cfg, c.wf = true → Inv (State.resetOf c)) ∧ Inv State.reset ∧ Inv (State.resetOf cfg32)

/-- No event changes the configuration (00_scope.md section 1, "no command changes it";
70_reset_and_hazards.md section 1, nor does reset). -/
def Obligations.ConfigurationNeverChanges : Prop :=
  ∀ s t : State, step s = .next t → t.cfg = s.cfg

/-- Every command of a constructed engine whose operands deserve no fault answers `OK` and changes
nothing but the register (and `seeded`, which stays set); one that is no `SEED` or `SEEDDBG` leaves the
register exactly as many evolutions on as 70_reset_and_hazards.md section 4 counts. -/
def Obligations.EveryCommandCompletesAtItsCost : Prop :=
  ∀ (i : Instr) (s : State), s.seeded = true → operandFault i = none →
    ∃ v r, exec i s = .next { s with
        state := v
        responses := s.responses ++ [⟨.ok, r⟩] } ∧
      (isSeeding i = false → v = evolved (evolutions i) s.state)

/-- R99: the codes; 6 to 15 are never produced; which command can raise which fault, and that a fault's
result is 0. -/
def Obligations.FaultTable : Prop :=
  (statusCode .ok = 0#4 ∧ statusCode (.fault .invalidRange) = 1#4 ∧
    statusCode (.fault .emptyInput) = 2#4 ∧ statusCode (.fault .bitWidthExceeded) = 3#4 ∧
    statusCode (.fault .illegalCommand) = 4#4 ∧ statusCode (.fault .notSeeded) = 5#4) ∧
  (∀ st : Status, (statusCode st).toNat ≤ 5) ∧
  (∀ (s u : State) (t : Transaction) (rest : List HostEvent) (f : CommandFault) (v : Word64),
    s.pending = .command t :: rest → step s = .next u →
    u.responses = s.responses ++ [⟨.fault f, v⟩] →
    v = 0#64 ∧
      ((f = .illegalCommand ∧ legal t = false) ∨
       (f = .notSeeded ∧ s.seeded = false ∧ ∃ i, decode t = .ok i ∧ isSeeding i = false) ∨
       (f = .invalidRange ∧ ∃ a b, decode t = .ok (.srange a b) ∧ b.toNat < a.toNat) ∨
       (f = .emptyInput ∧ decode t = .ok (.choose 0#64)) ∨
       (f = .bitWidthExceeded ∧ ∃ n, decode t = .ok (.suint n) ∧ 64 < n)))

/-- R104: `NotSeeded` is raised by every decodable command other than `SEED` and `SEEDDBG` while
`seeded = 0`, and cannot occur once `seeded = 1`. -/
def Obligations.NotSeededUntilConstructed : Prop :=
  (∀ i : Instr, isSeeding i = false → RejectsUnseeded i) ∧
  (∀ (s u : State) (r : Response), s.seeded = true → step s = .next u →
    u.responses = s.responses ++ [r] → r.status ≠ .fault .notSeeded) ∧
  (∀ (i : Instr) (s : State), isSeeding i = true →
    ∃ v, exec i s = .next { s with
      state := v
      seeded := true
      responses := s.responses ++ [⟨.ok, 0#64⟩] })

/-! ### The engine -/

/-- R57: bit by bit, `E(s)[i] = s[(i-1) mod N] XOR (s[i] OR s[(i+1) mod N])`. -/
def Obligations.EvolutionIsCellwise : Prop :=
  ∀ (n : Nat) (s : BitVec n) (i : Nat), i < n →
    (evolveCells s).getLsbD i =
      (s.getLsbD ((i + n - 1) % n) ^^ (s.getLsbD i || s.getLsbD ((i + 1) % n)))

/-- R58: `EVOLVE`. -/
def Obligations.EvolveAdvancesOneStep : Prop :=
  EncodedBy 0x1000#16 (fun _ _ => .evolve) ∧ RejectsUnseeded .evolve ∧
  (∀ s : State, s.seeded = true → ∃ v : BitVec s.cfg.n,
    (∀ i, i < s.cfg.n → v.getLsbD i = cellRule s.state i) ∧
    exec .evolve s = .next { s with
      state := v
      responses := s.responses ++ [⟨.ok, 0#64⟩] }) ∧
  (∀ n : Nat, evolveCells (0#n) = 0#n ∧ evolveCells (BitVec.allOnes n) = 0#n) ∧
  (∀ (n : Nat) (odd : Bool) (s : BitVec n), n % 2 = 0 → Alternating odd s → evolveCells s = s)

/-- R59: `SBIT` answers the centre bit of the state before its one evolution, as 1 or 0. -/
def Obligations.SbitSamplesThenEvolves : Prop :=
  EncodedBy 0x1100#16 (fun _ _ => .sbit) ∧ RejectsUnseeded .sbit ∧
  (∀ s : State, s.seeded = true → ∃ v : BitVec s.cfg.n,
    (∀ i, i < s.cfg.n → v.getLsbD i = cellRule s.state i) ∧
    exec .sbit s = .next { s with
      state := v
      responses := s.responses ++ [⟨.ok, if s.state.getLsbD s.cfg.c then 1#64 else 0#64⟩] }) ∧
  (∀ s : State, exec .sbit s = exec (.suint 1) s)

/-- The truth table of one cell, whose bottom row reads 30 (40_engine.md section 2, derived there): the
new value of the middle cell of three. -/
def Obligations.CellTruthTableReads30 : Prop :=
  ∀ (n i : Nat) (s : BitVec n), i < n →
    (evolveCells s).getLsbD i =
      Nat.testBit 30
        (4 * (s.getLsbD ((i + n - 1) % n)).toNat + 2 * (s.getLsbD i).toNat
          + (s.getLsbD ((i + 1) % n)).toNat)

/-- Rotation commutes with evolution (40_engine.md section 2, fact (a), derived there). -/
def Obligations.EvolutionCommutesWithRotation : Prop :=
  ∀ (n k : Nat) (s : BitVec n), evolveCells (s.rotateLeft k) = (evolveCells s).rotateLeft k

/-- The fixed points of an even ring are exactly zero and the two alternating patterns (40_engine.md
section 2, fact (b), derived there). -/
def Obligations.FixedPointsAreExactlyThree : Prop :=
  ∀ (n : Nat) (s : BitVec n), n % 2 = 0 →
    (evolveCells s = s ↔ s = 0#n ∨ Alternating true s ∨ Alternating false s)

/-- The states that evolve to 0 are exactly 0 and all ones, so evolution is not injective (40_engine.md
section 2, facts (c) and (e), derived there). -/
def Obligations.PredecessorsOfZero : Prop :=
  (∀ (n : Nat) (s : BitVec n), evolveCells s = 0#n ↔ s = 0#n ∨ s = BitVec.allOnes n) ∧
  (∀ n : Nat, 0 < n → ¬ Function.Injective (evolveCells (n := n)))

/-- The streams of the degenerate seeds (40_engine.md section 2, fact (d), derived there): zero gives 0s,
all ones gives one 1 and then 0s, an alternating state gives its centre bit for ever. -/
def Obligations.DegenerateSeedsGiveConstantStreams : Prop :=
  ∀ (s : State) (k : Nat),
    (s.state = 0#s.cfg.n → sample s k = false) ∧
    (s.state = BitVec.allOnes s.cfg.n → s.cfg.c < s.cfg.n → sample s k = decide (k = 0)) ∧
    (∀ odd, s.cfg.n % 2 = 0 → Alternating odd s.state → sample s k = s.state.getLsbD s.cfg.c)

/-- As long as the pattern has reached neither end of the register, all widths evolve alike
(40_engine.md section 2, derived there). -/
def Obligations.WidthsAgreeUntilTheEdge : Prop :=
  ∀ (x lo hi m n k : Nat), (∀ i, x.testBit i = true → lo ≤ i ∧ i ≤ hi) → lo ≤ hi → hi < m → hi < n →
    k ≤ lo → k ≤ m - 1 - hi → k ≤ n - 1 - hi →
    (evolved k (BitVec.ofNat m x)).toNat = (evolved k (BitVec.ofNat n x)).toNat

/-- The two debug-seed streams have the same first 32 samples and differ at the 33rd (40_engine.md
section 2, derived there). -/
def Obligations.DebugStreamsPartAfter32 : Prop :=
  (∀ k, k < 32 → (evolved k cfg64.debugSeed).getLsbD cfg64.c
      = (evolved k cfg32.debugSeed).getLsbD cfg32.c) ∧
  (evolved 32 cfg64.debugSeed).getLsbD cfg64.c ≠ (evolved 32 cfg32.debugSeed).getLsbD cfg32.c

/-! ### The integer composer -/

/-- R64: a draw of `k` bits places sample `i` at bit `i`, zero above, and costs exactly `k` evolutions. -/
def Obligations.DrawComposesTheStream : Prop :=
  ∀ (s : State) (k : Nat), k ≤ 64 →
    ComposedFrom s k (drawn k s) ∧ afterDraw k s = { s with state := evolved k s.state }

/-- R65: `SUINT n`, every `n` from 0 to 255. -/
def Obligations.SuintComposesOrRejects : Prop :=
  (∀ (n : Nat) (opa opb : Word64), n < 256 →
    decode ⟨BitVec.ofNat 16 (0x2000 + n), opa, opb⟩ = .ok (.suint n)) ∧
  (∀ n, RejectsUnseeded (.suint n)) ∧
  (∀ n, 64 < n → RejectsSeeded (.suint n) .bitWidthExceeded) ∧
  (∀ n, n ≤ 64 → DrawsAndAnswers (.suint n) n (fun y r => r = y)) ∧
  (∀ s : State, s.seeded = true →
    exec (.suint 0) s = .next { s with responses := s.responses ++ [⟨.ok, 0#64⟩] })

/-- R66, R67, R68: `SU8`, `SU32`, `SU64`, the same result and state as `SUINT` with the matching
count. -/
def Obligations.FixedWidthUnsignedDraws : Prop :=
  (EncodedBy 0x2100#16 (fun _ _ => .su8) ∧ RejectsUnseeded .su8 ∧
    DrawsAndAnswers .su8 8 (fun y r => r = y) ∧ ∀ s, exec .su8 s = exec (.suint 8) s) ∧
  (EncodedBy 0x2200#16 (fun _ _ => .su32) ∧ RejectsUnseeded .su32 ∧
    DrawsAndAnswers .su32 32 (fun y r => r = y) ∧ ∀ s, exec .su32 s = exec (.suint 32) s) ∧
  (EncodedBy 0x2300#16 (fun _ _ => .su64) ∧ RejectsUnseeded .su64 ∧
    DrawsAndAnswers .su64 64 (fun y r => r = y) ∧ ∀ s, exec .su64 s = exec (.suint 64) s)

/-- R69: `SI32` answers the 32 samples sign-extended: the whole result read as a signed 64-bit integer is
the two's-complement reading of the 32 bits. -/
def Obligations.Si32SignExtendsItsDraw : Prop :=
  EncodedBy 0x2400#16 (fun _ _ => .si32) ∧ RejectsUnseeded .si32 ∧
  DrawsAndAnswers .si32 32 (fun y r =>
    (∀ i, i < 64 → r.getLsbD i = y.getLsbD (min i 31)) ∧
    r.toInt = if y.toNat < 2 ^ 31 then (y.toNat : Int) else (y.toNat : Int) - 2 ^ 32)

/-- R70: `SI64` answers the 64 samples, exactly `SU64`'s result and state. -/
def Obligations.Si64IsSu64ReadSigned : Prop :=
  EncodedBy 0x2500#16 (fun _ _ => .si64) ∧ RejectsUnseeded .si64 ∧
  DrawsAndAnswers .si64 64 (fun y r => r = y) ∧ ∀ s, exec .si64 s = exec .su64 s

/-- The concatenation law (41_integer_composer.md section 3, derived there): drawing `m` bits and then `n`
is drawing `m + n`. -/
def Obligations.ConcatenationLaw : Prop :=
  ∀ (s : State) (m n : Nat), m + n ≤ 64 →
    (drawn (m + n) s).toNat = (drawn m s).toNat + 2 ^ m * (drawn n (afterDraw m s)).toNat ∧
    afterDraw (m + n) s = afterDraw n (afterDraw m s)

/-- The adapter's buffer fill (44_construction_and_observation.md section 3): four `SU8` in a row are the
bytes of the `SU32` from the same state, the first byte lowest, and leave the same register. -/
def Obligations.FillBytesSplitsAWord : Prop :=
  ∀ (s : State) (rest : List HostEvent), s.seeded = true →
    ∃ v b₀ b₁ b₂ b₃ y,
      runSteps 4 { s with pending := (expand (.fillBytes 4)).map present ++ rest } = .next { s with
        state := v
        pending := rest
        responses := s.responses ++ [⟨.ok, b₀⟩, ⟨.ok, b₁⟩, ⟨.ok, b₂⟩, ⟨.ok, b₃⟩] } ∧
      exec .su32 s = .next { s with state := v, responses := s.responses ++ [⟨.ok, y⟩] } ∧
      y.toNat = b₀.toNat + 2 ^ 8 * b₁.toNat + 2 ^ 16 * b₂.toNat + 2 ^ 24 * b₃.toNat

/-! ### The float composer -/

/-- R75: three roundings, of `y`, of `2^W - 1` and of the quotient, each to nearest with ties to the even
significand, and the IEEE 754 bit pattern of the last. -/
def Obligations.FloatsAreThreeRoundingsToNearestEven : Prop :=
  (∀ y : Word64, y.toNat < 2 ^ 32 → ∃ fy fm f : BinFloat,
    IsNearestEven 24 y.toNat fy ∧ IsNearestEven 24 (2 ^ 32 - 1) fm ∧
    IsNearestEven 24 (binFloatValue fy / binFloatValue fm) f ∧
    floatValue binary32 (floatResult32 y).toNat = binFloatValue f) ∧
  (∀ y : Word64, ∃ fy fm f : BinFloat,
    IsNearestEven 53 y.toNat fy ∧ IsNearestEven 53 (2 ^ 64 - 1) fm ∧
    IsNearestEven 53 (binFloatValue fy / binFloatValue fm) f ∧
    floatValue binary64 (floatResult64 y).toNat = binFloatValue f)

/-- R76: `SF32`. -/
def Obligations.Sf32DrawsAndDivides : Prop :=
  EncodedBy 0x3000#16 (fun _ _ => .sf32) ∧ RejectsUnseeded .sf32 ∧
  DrawsAndAnswers .sf32 32 (fun y r =>
    r.toNat = floatBits binary32
      (divide binary32 (convert binary32 y.toNat) (convert binary32 0xFFFFFFFF)) ∧
    (y.toNat = 0 → r.toNat = 0) ∧ (y.toNat = 1 → r.toNat = 0x2F800000) ∧
    (y.toNat = 0x7FFFFFFF ∨ y.toNat = 0x80000000 → r.toNat = 0x3F000000) ∧
    (y.toNat = 0xFFFFFF7F → r.toNat = 0x3F7FFFFF) ∧
    (0xFFFFFF80 ≤ y.toNat ↔ r.toNat = 0x3F800000) ∧
    (r.toNat = 0 ∨ (0x2F800000 ≤ r.toNat ∧ r.toNat ≤ 0x3F800000)))

/-- R77: `SF64`. -/
def Obligations.Sf64DrawsAndDivides : Prop :=
  EncodedBy 0x3100#16 (fun _ _ => .sf64) ∧ RejectsUnseeded .sf64 ∧
  DrawsAndAnswers .sf64 64 (fun y r =>
    r.toNat = floatBits binary64
      (divide binary64 (convert binary64 y.toNat) (convert binary64 0xFFFFFFFFFFFFFFFF)) ∧
    (y.toNat = 0 → r.toNat = 0) ∧ (y.toNat = 1 → r.toNat = 0x3BF0000000000000) ∧
    (y.toNat = 2 ^ 63 → r.toNat = 0x3FE0000000000000) ∧
    (y.toNat = 2 ^ 64 - 1025 → r.toNat = 0x3FEFFFFFFFFFFFFF) ∧
    (2 ^ 64 - 1024 ≤ y.toNat ↔ r.toNat = 0x3FF0000000000000) ∧
    (r.toNat = 0 ∨ (0x3BF0000000000000 ≤ r.toNat ∧ r.toNat ≤ 0x3FF0000000000000)))

/-- The closed form (42_float_composer.md section 3, derived there): the result is the draw rounded to the
format's precision, divided by `2^W`. -/
def Obligations.FloatClosedForm : Prop :=
  (∀ y : Word64, y.toNat < 2 ^ 32 →
    floatValue binary32 (floatResult32 y).toNat = (roundInteger 24 y.toNat : ℚ) / 2 ^ 32) ∧
  (∀ y : Word64,
    floatValue binary64 (floatResult64 y).toNat = (roundInteger 53 y.toNat : ℚ) / 2 ^ 64)

/-- The properties P2 to P5 a model may rely on (42_float_composer.md section 3, derived there). -/
def Obligations.FloatsLieInTheClosedUnitInterval : Prop :=
  (∀ y : Word64, y.toNat < 2 ^ 32 →
    let f := floatValue binary32 (floatResult32 y).toNat
    0 ≤ f ∧ f ≤ 1 ∧ (f = 0 ↔ y = 0#64) ∧ (∃ k : ℕ, f = k / 2 ^ 32) ∧
    ∀ z : Word64, z.toNat < 2 ^ 32 → y.toNat ≤ z.toNat →
      f ≤ floatValue binary32 (floatResult32 z).toNat) ∧
  (∀ y : Word64,
    let f := floatValue binary64 (floatResult64 y).toNat
    0 ≤ f ∧ f ≤ 1 ∧ (f = 0 ↔ y = 0#64) ∧ (∃ k : ℕ, f = k / 2 ^ 64) ∧
    ∀ z : Word64, y.toNat ≤ z.toNat → f ≤ floatValue binary64 (floatResult64 z).toNat)

/-! ### Range and choice -/

/-- R82: `SRANGE a, b`, with `b - a + 1` in the unbounded integers; the result lies in `a..b`. -/
def Obligations.SrangeReducesOrRejects : Prop :=
  EncodedBy 0x4000#16 (fun opa opb => .srange opa opb) ∧
  ∀ a b : Word64, RejectsUnseeded (.srange a b) ∧
    (b.toNat < a.toNat → RejectsSeeded (.srange a b) .invalidRange) ∧
    (a.toNat ≤ b.toNat → DrawsAndAnswers (.srange a b) 64 (fun y r =>
      r.toNat = a.toNat + y.toNat % (b.toNat - a.toNat + 1) ∧
      a.toNat ≤ r.toNat ∧ r.toNat ≤ b.toNat ∧
      (a = b → r = a) ∧ (a = 0#64 → b = BitVec.allOnes 64 → r = y)))

/-- R83: `CHOOSE L` answers an index `y mod L`, the result and state of `SRANGE 0, L-1`; `CHOOSE 0` is
`EmptyInput`. -/
def Obligations.ChooseIndexesOrRejects : Prop :=
  EncodedBy 0x4100#16 (fun opa _ => .choose opa) ∧
  RejectsSeeded (.choose 0#64) .emptyInput ∧
  ∀ len : Word64, RejectsUnseeded (.choose len) ∧
    (len ≠ 0#64 →
      DrawsAndAnswers (.choose len) 64 (fun y r =>
        r.toNat = y.toNat % len.toNat ∧ r.toNat < len.toNat) ∧
      ∀ s, exec (.choose len) s = exec (.srange 0#64 (len - 1#64)) s)

/-! ### Construction and observation -/

/-- R89: `SEED value`, seeded or not, keeps the low `N` bits of the value as they are. -/
def Obligations.SeedWritesTheTruncatedValue : Prop :=
  EncodedBy 0x0100#16 (fun opa _ => .seed opa) ∧
  ∀ (s : State) (value : Word64), ∃ v : BitVec s.cfg.n,
    v.toNat = value.toNat % 2 ^ s.cfg.n ∧
    exec (.seed value) s = .next { s with
      state := v
      seeded := true
      responses := s.responses ++ [⟨.ok, 0#64⟩] }

/-- R90: `SEEDDBG`, seeded or not, writes `DEBUG_SEED`, a single active centre cell in both named
configurations; the same as `SEED DEBUG_SEED`. -/
def Obligations.SeeddbgWritesTheDebugSeed : Prop :=
  EncodedBy 0x0200#16 (fun _ _ => .seeddbg) ∧
  (∀ s : State, exec .seeddbg s = .next { s with
      state := s.cfg.debugSeed
      seeded := true
      responses := s.responses ++ [⟨.ok, 0#64⟩] }) ∧
  (∀ s : State, s.cfg.n ≤ 64 →
    exec .seeddbg s = exec (.seed (BitVec.ofNat 64 s.cfg.debugSeed.toNat)) s) ∧
  cfg64.debugSeed.toNat = 2 ^ 31 ∧ cfg64.debugSeed.toNat = 2 ^ cfg64.c ∧
  cfg32.debugSeed.toNat = 2 ^ 16 ∧ cfg32.debugSeed.toNat = 2 ^ cfg32.c

/-- R91: `RDSTATE` answers the whole register, zero-extended, and writes nothing. -/
def Obligations.RdstateReadsAndWritesNothing : Prop :=
  EncodedBy 0x0300#16 (fun _ _ => .rdstate) ∧ RejectsUnseeded .rdstate ∧
  ∀ s : State, s.seeded = true → ∃ r : Word64,
    (∀ i, r.getLsbD i = (decide (i < 64) && s.state.getLsbD i)) ∧
    (s.cfg.n ≤ 64 → r.toNat = s.state.toNat) ∧
    exec .rdstate s = .next { s with responses := s.responses ++ [⟨.ok, r⟩] }

/-- Clone and restore (44_construction_and_observation.md section 2, derived there): `SEED` with what
`RDSTATE` answered, on any instance of the same configuration, gives the register read. -/
def Obligations.CloneRestoresTheRegister : Prop :=
  ∀ (s u : State) (r : Word64) (w : BitVec s.cfg.n) (b : Bool) (p : List HostEvent)
    (rs : List Response) (k : Nat), s.seeded = true → s.cfg.n ≤ 64 →
    exec .rdstate s = .next u → u.responses = s.responses ++ [⟨.ok, r⟩] →
    exec (cloneCommand r) { s with state := w, seeded := b, pending := p, responses := rs, resets := k }
      = .next { s with pending := p, responses := rs ++ [⟨.ok, 0#64⟩], resets := k }

/-! ### Whole-machine rules -/

/-- R62, "no command reads anything but `state`, `seeded`, the configuration and its own operands": the
response to a command and the pair `(state, seeded)` it leaves are a function of the
configuration, the pair and the command alone. -/
def Obligations.ResponsesAreDetermined : Prop :=
  ∀ (i : Instr) (s : State), ∃ v b r,
    exec i s = .next { s with state := v, seeded := b, responses := s.responses ++ [r] } ∧
    ∀ (p : List HostEvent) (rs : List Response) (k : Nat),
      exec i { s with pending := p, responses := rs, resets := k } = .next { s with
        state := v
        seeded := b
        pending := p
        responses := rs ++ [r]
        resets := k }

/-- R38: commands take effect one at a time in the order issued, each wholly before the next: running a
list of events and then another is running the first alone and the second from the state it leaves. -/
def Obligations.CommandsTakeEffectInOrder : Prop :=
  ∀ (s : State) (first second : List HostEvent), ∃ t u,
    runSteps first.length { s with pending := first } = .next t ∧ t.pending = [] ∧
    runSteps first.length { s with pending := first ++ second } = .next { t with pending := second } ∧
    runSteps second.length { t with pending := second } = .next u ∧ u.pending = [] ∧
    runSteps (first.length + second.length) { s with pending := first ++ second } = .next u

/-- R119: while `seeded = 0` the content of the register cannot be found out: whatever the host does, two
machines that differ in it alone give the same responses, and are equal once one of them is seeded. -/
def Obligations.ResetContentIsUnobservable : Prop :=
  ∀ (s : State) (v : BitVec s.cfg.n) (k : Nat), s.seeded = false →
    ∃ t u, runSteps k s = .next t ∧ runSteps k { s with state := v } = .next u ∧
      t.responses = u.responses ∧ t.pending = u.pending ∧ t.seeded = u.seeded ∧
      (t.seeded = true → t = u)

/-- Two engines of one configuration constructed with the same explicit seed give identical responses,
whatever they held before (10_state.md section 8). -/
def Obligations.EqualSeedsGiveEqualStreams : Prop :=
  ∀ (s : State) (w : BitVec s.cfg.n) (b : Bool) (rs : List Response) (seed : Word64)
    (evs : List HostEvent) (k : Nat), ∃ (t : State) (l : List Response),
    runSteps (k + 1) { s with pending := present (.seed seed) :: evs }
      = .next { t with responses := s.responses ++ l } ∧
    runSteps (k + 1)
        { s with state := w, seeded := b, pending := present (.seed seed) :: evs, responses := rs }
      = .next { t with responses := rs ++ l }
end

