-- ==== Sys2Proof/Laws/State.lean ====
section
/-! SUPPORT. One lemma per field per update of the state, true by `rfl`, so that no proof unfolds a record
update. -/

namespace Sys2Proof.Machine

/-! ### `setState` -/

@[simp] theorem setState_cfg (s : State) (v : BitVec s.cfg.n) : (setState s v).cfg = s.cfg := rfl
@[simp] theorem setState_state (s : State) (v : BitVec s.cfg.n) : (setState s v).state = v := rfl
@[simp] theorem setState_seeded (s : State) (v : BitVec s.cfg.n) : (setState s v).seeded = s.seeded := rfl
@[simp] theorem setState_pending (s : State) (v : BitVec s.cfg.n) : (setState s v).pending = s.pending := rfl
@[simp] theorem setState_responses (s : State) (v : BitVec s.cfg.n) :
    (setState s v).responses = s.responses := rfl
@[simp] theorem setState_resets (s : State) (v : BitVec s.cfg.n) : (setState s v).resets = s.resets := rfl

/-! ### `evolve` -/

@[simp] theorem evolve_cfg (s : State) : (evolve s).cfg = s.cfg := rfl
@[simp] theorem evolve_state (s : State) : (evolve s).state = evolveCells s.state := rfl
@[simp] theorem evolve_seeded (s : State) : (evolve s).seeded = s.seeded := rfl
@[simp] theorem evolve_pending (s : State) : (evolve s).pending = s.pending := rfl
@[simp] theorem evolve_responses (s : State) : (evolve s).responses = s.responses := rfl
@[simp] theorem evolve_resets (s : State) : (evolve s).resets = s.resets := rfl

/-! ### `afterDraw` -/

@[simp] theorem afterDraw_cfg (k : Nat) (s : State) : (afterDraw k s).cfg = s.cfg := rfl
@[simp] theorem afterDraw_seeded (k : Nat) (s : State) : (afterDraw k s).seeded = s.seeded := rfl
@[simp] theorem afterDraw_pending (k : Nat) (s : State) : (afterDraw k s).pending = s.pending := rfl
@[simp] theorem afterDraw_responses (k : Nat) (s : State) : (afterDraw k s).responses = s.responses := rfl
@[simp] theorem afterDraw_resets (k : Nat) (s : State) : (afterDraw k s).resets = s.resets := rfl

/-! ### `markSeeded` -/

@[simp] theorem markSeeded_cfg (s : State) : (markSeeded s).cfg = s.cfg := rfl
@[simp] theorem markSeeded_state (s : State) : (markSeeded s).state = s.state := rfl
@[simp] theorem markSeeded_seeded (s : State) : (markSeeded s).seeded = true := rfl
@[simp] theorem markSeeded_pending (s : State) : (markSeeded s).pending = s.pending := rfl
@[simp] theorem markSeeded_responses (s : State) : (markSeeded s).responses = s.responses := rfl
@[simp] theorem markSeeded_resets (s : State) : (markSeeded s).resets = s.resets := rfl

/-! ### `respond` and `raise` -/

@[simp] theorem respond_cfg (st : Status) (v : Word64) (s : State) : (respond st v s).cfg = s.cfg := rfl
@[simp] theorem respond_state (st : Status) (v : Word64) (s : State) : (respond st v s).state = s.state := rfl
@[simp] theorem respond_seeded (st : Status) (v : Word64) (s : State) :
    (respond st v s).seeded = s.seeded := rfl
@[simp] theorem respond_pending (st : Status) (v : Word64) (s : State) :
    (respond st v s).pending = s.pending := rfl
@[simp] theorem respond_responses (st : Status) (v : Word64) (s : State) :
    (respond st v s).responses = s.responses ++ [⟨st, v⟩] := rfl
@[simp] theorem respond_resets (st : Status) (v : Word64) (s : State) :
    (respond st v s).resets = s.resets := rfl

@[simp] theorem raise_cfg (f : CommandFault) (s : State) : (raise f s).cfg = s.cfg := rfl
@[simp] theorem raise_state (f : CommandFault) (s : State) : (raise f s).state = s.state := rfl
@[simp] theorem raise_seeded (f : CommandFault) (s : State) : (raise f s).seeded = s.seeded := rfl
@[simp] theorem raise_pending (f : CommandFault) (s : State) : (raise f s).pending = s.pending := rfl
@[simp] theorem raise_responses (f : CommandFault) (s : State) :
    (raise f s).responses = s.responses ++ [⟨.fault f, 0#64⟩] := rfl
@[simp] theorem raise_resets (f : CommandFault) (s : State) : (raise f s).resets = s.resets := rfl

/-! ### `takeReset` -/

@[simp] theorem takeReset_cfg (s : State) : (takeReset s).cfg = s.cfg := rfl
@[simp] theorem takeReset_state (s : State) :
    (takeReset s).state = Config.resetState s.resets s.cfg.n := rfl
@[simp] theorem takeReset_seeded (s : State) : (takeReset s).seeded = false := rfl
@[simp] theorem takeReset_pending (s : State) : (takeReset s).pending = s.pending := rfl
@[simp] theorem takeReset_responses (s : State) : (takeReset s).responses = s.responses := rfl
@[simp] theorem takeReset_resets (s : State) : (takeReset s).resets = s.resets + 1 := rfl

/-! ### `setPending` -/

@[simp] theorem setPending_cfg (s : State) (p : List HostEvent) : (setPending s p).cfg = s.cfg := rfl
@[simp] theorem setPending_state (s : State) (p : List HostEvent) : (setPending s p).state = s.state := rfl
@[simp] theorem setPending_seeded (s : State) (p : List HostEvent) :
    (setPending s p).seeded = s.seeded := rfl
@[simp] theorem setPending_pending (s : State) (p : List HostEvent) : (setPending s p).pending = p := rfl
@[simp] theorem setPending_responses (s : State) (p : List HostEvent) :
    (setPending s p).responses = s.responses := rfl
@[simp] theorem setPending_resets (s : State) (p : List HostEvent) :
    (setPending s p).resets = s.resets := rfl

end Sys2Proof.Machine
end

