-- ==== Sys2Proof/Laws/Ops.lean ====
section
/-! SUPPORT. One lemma per shared operation: what it can do. -/

namespace Sys2Proof.Machine

/-! ### The sampler -/

theorem drawBits_zero {n : Nat} (c : Nat) (s : BitVec n) : drawBits c 0 s = (0#64, s) := rfl

/-- The last turn of the loop: read, then evolve. -/
theorem drawBits_succ {n : Nat} (c k : Nat) (s : BitVec n) :
    drawBits c (k + 1) s =
      (placeBit (drawBits c k s).1 k ((drawBits c k s).2.getLsbD c), evolveCells (drawBits c k s).2) :=
  rfl

/-- Placing a bit sets that bit and leaves every other. -/
theorem getLsbD_placeBit (r : Word64) (k i : Nat) (b : Bool) :
    (placeBit r k b).getLsbD i = (r.getLsbD i || (decide (i = k) && decide (i < 64) && b)) := by
  simp only [placeBit, BitVec.getLsbD_or, BitVec.getLsbD_shiftLeft, BitVec.getLsbD_setWidth,
    BitVec.getLsbD_ofBool]
  by_cases h : i = k
  · subst h; cases b <;> simp
  · rcases Nat.lt_or_gt_of_ne h with h' | h'
    · simp [h, h']
    · have : i - k ≠ 0 := by omega
      simp [h, this]

/-! ### The `seeded` check -/

theorem whenSeeded_of_seeded {act : State → State} {s : State} (h : s.seeded = true) :
    whenSeeded act s = act s := by simp [whenSeeded, h]

theorem whenSeeded_of_unseeded {act : State → State} {s : State} (h : s.seeded = false) :
    whenSeeded act s = raise .notSeeded s := by simp [whenSeeded, h]

/-! ### The step -/

theorem takeEvent_nil {s : State} (h : s.pending = []) : takeEvent s = none := by
  simp [takeEvent, h]

theorem takeEvent_cons {s : State} {e : HostEvent} {rest : List HostEvent} (h : s.pending = e :: rest) :
    takeEvent s = some (e, setPending s rest) := by
  simp [takeEvent, h]

/-! ### Executing a command -/

/-- What executing a command can do: it writes the register and `seeded` at most, and gives exactly one
response. -/
theorem exec_shape (i : Instr) (s : State) :
    ∃ v b r, exec i s = .next { s with state := v, seeded := b, responses := s.responses ++ [r] } := by
  cases i <;>
    simp only [exec, execSeed, execSeeddbg, execRdstate, execEvolve, execSbit, execSuint, execSu8, execSu32,
      execSu64, execSi32, execSi64, execSf32, execSf64, execSrange, execChoose, whenSeeded]
  case seed | seeddbg => exact ⟨_, _, _, rfl⟩
  all_goals
    split
    · try split
      all_goals exact ⟨_, _, _, rfl⟩
    · exact ⟨_, _, _, rfl⟩

/-- A seeding command's answer does not depend on `seeded`; every other command without it is rejected. -/
theorem exec_unseeded {i : Instr} {s : State} (hs : s.seeded = false)
    (hi : (∀ v, i ≠ .seed v) ∧ i ≠ .seeddbg) : exec i s = .next (raise .notSeeded s) := by
  cases i <;> first
    | exact absurd rfl (hi.1 _)
    | exact absurd rfl hi.2
    | exact congrArg Host.Outcome.next (whenSeeded_of_unseeded hs)

/-- What a step can do: nothing, a reset, the rejection of an illegal word, or the execution of a decoded
command on the machine with the event taken off the list. -/
theorem step_cases (s : State) :
    (s.pending = [] ∧ step s = .next s) ∨
    (∃ rest, (s.pending = .reset :: rest ∨ ∃ c, s.pending = .resetDuring c :: rest) ∧
      step s = .next (takeReset (setPending s rest))) ∨
    (∃ t rest e, s.pending = .command t :: rest ∧ decode t = .error e ∧
      step s = .next (raise .illegalCommand (setPending s rest))) ∨
    (∃ t rest i, s.pending = .command t :: rest ∧ decode t = .ok i ∧
      step s = exec i (setPending s rest)) := by
  match hp : s.pending with
  | [] => exact .inl ⟨rfl, by simp only [step, takeEvent_nil hp]⟩
  | .reset :: rest =>
    exact .inr (.inl ⟨rest, .inl rfl, by simp only [step, takeEvent_cons hp]⟩)
  | .resetDuring c :: rest =>
    exact .inr (.inl ⟨rest, .inr ⟨c, rfl⟩, by simp only [step, takeEvent_cons hp]⟩)
  | .command t :: rest =>
    cases hd : decode t with
    | error e =>
      exact .inr (.inr (.inl ⟨t, rest, e, rfl, hd, by simp only [step, takeEvent_cons hp, hd, rejectIllegal]⟩))
    | ok i =>
      exact .inr (.inr (.inr ⟨t, rest, i, rfl, hd, by simp only [step, takeEvent_cons hp, hd]⟩))

end Sys2Proof.Machine
end

