-- ==== Sys2Proof/Laws/Decode.lean ====
section
/-! SUPPORT. What decoding can answer: the fields of a word, the opcodes with a reserved immediate, and the
cases of a decoded transaction. -/

namespace Sys2Proof

/-- A word is its opcode and its immediate (R44). -/
theorem commandWord_fields (w : CmdWord) : commandWord (opcodeField w) (imm8Field w) = w := by
  apply BitVec.eq_of_getLsbD_eq
  intro i hi
  simp only [commandWord, opcodeField, imm8Field, BitVec.getLsbD_append, BitVec.getLsbD_extractLsb']
  by_cases h : i < 8
  · simp [h]
  · have h₁ : i - 8 < 8 := by omega
    have h₂ : 8 + (i - 8) = i := by omega
    simp [h, h₁, h₂]

theorem opcodeField_commandWord (op imm : Byte) : opcodeField (commandWord op imm) = op := by
  apply BitVec.eq_of_getLsbD_eq
  intro i hi
  have h : ¬ (8 + i < 8) := by omega
  have h' : 8 + i - 8 = i := by omega
  rw [opcodeField, BitVec.getLsbD_extractLsb', commandWord, BitVec.getLsbD_append]
  simp [hi, h, h']

theorem imm8Field_commandWord (op imm : Byte) : imm8Field (commandWord op imm) = imm := by
  apply BitVec.eq_of_getLsbD_eq
  intro i hi
  rw [imm8Field, BitVec.getLsbD_extractLsb', commandWord, BitVec.getLsbD_append]
  simp [hi]

/-- A word with known fields. -/
theorem eq_commandWord {w : CmdWord} {op imm : Byte} (ho : opcodeField w = op) (hi : imm8Field w = imm) :
    w = commandWord op imm := by
  rw [← commandWord_fields w, ho, hi]

/-- One turn of a chain of conditions. -/
theorem ite_some_cases {α : Type} {p : Prop} [Decidable p] {y i : α} {x : Option α}
    (h : (if p then some y else x) = some i) : (p ∧ i = y) ∨ x = some i := by
  by_cases hp : p
  · rw [if_pos hp] at h; exact .inl ⟨hp, (Option.some.inj h).symm⟩
  · rw [if_neg hp] at h; exact .inr h

/-- The fourteen opcodes whose immediate is reserved, each with its command (R47, R50). -/
theorem bareCommand_cases {op : Byte} {opa opb : Word64} {i : Instr} (h : bareCommand op opa opb = some i) :
    (op = 0x01#8 ∧ i = .seed opa) ∨ (op = 0x02#8 ∧ i = .seeddbg) ∨ (op = 0x03#8 ∧ i = .rdstate) ∨
    (op = 0x10#8 ∧ i = .evolve) ∨ (op = 0x11#8 ∧ i = .sbit) ∨ (op = 0x21#8 ∧ i = .su8) ∨
    (op = 0x22#8 ∧ i = .su32) ∨ (op = 0x23#8 ∧ i = .su64) ∨ (op = 0x24#8 ∧ i = .si32) ∨
    (op = 0x25#8 ∧ i = .si64) ∨ (op = 0x30#8 ∧ i = .sf32) ∨ (op = 0x31#8 ∧ i = .sf64) ∨
    (op = 0x40#8 ∧ i = .srange opa opb) ∨ (op = 0x41#8 ∧ i = .choose opa) := by
  unfold bareCommand at h
  iterate 13 refine (ite_some_cases h).imp id fun h => ?_
  exact (ite_some_cases h).resolve_right (by simp)

/-- Whether an opcode has a command does not depend on the operands (R50). -/
theorem bareCommand_isSome (op : Byte) (opa opb opa' opb' : Word64) :
    (bareCommand op opa opb).isSome = (bareCommand op opa' opb').isSome := by
  simp only [bareCommand, apply_ite Option.isSome, Option.isSome_some, Option.isSome_none]

/-- A transaction that decodes is a `SUINT` word, or a word with a zero immediate and another opcode. -/
theorem decode_ok_cases {t : Transaction} {i : Instr} (h : decode t = .ok i) :
    (opcodeField t.cmd = 0x20#8 ∧ i = .suint (imm8Field t.cmd).toNat) ∨
    (opcodeField t.cmd ≠ 0x20#8 ∧ imm8Field t.cmd = 0#8 ∧
      bareCommand (opcodeField t.cmd) t.opa t.opb = some i) := by
  simp only [decode] at h
  by_cases ho : opcodeField t.cmd = 0x20#8
  · rw [if_pos ho] at h
    exact .inl ⟨ho, (Except.ok.inj h).symm⟩
  · rw [if_neg ho] at h
    refine .inr ⟨ho, ?_⟩
    cases hb : bareCommand (opcodeField t.cmd) t.opa t.opb with
    | none => rw [hb] at h; cases h
    | some j =>
      rw [hb] at h
      dsimp only at h
      by_cases hi : imm8Field t.cmd = 0#8
      · rw [if_pos hi] at h
        exact ⟨hi, congrArg some (Except.ok.inj h)⟩
      · rw [if_neg hi] at h; cases h

/-- A word with a `SUINT` opcode decodes whatever its immediate. -/
theorem decode_suint {t : Transaction} (ho : opcodeField t.cmd = 0x20#8) :
    decode t = .ok (.suint (imm8Field t.cmd).toNat) := by
  simp only [decode, if_pos ho]

/-- A word with another legal opcode and a zero immediate decodes to that opcode's command. -/
theorem decode_bare {t : Transaction} {i : Instr} (ho : opcodeField t.cmd ≠ 0x20#8)
    (hi : imm8Field t.cmd = 0#8) (hb : bareCommand (opcodeField t.cmd) t.opa t.opb = some i) :
    decode t = .ok i := by
  simp only [decode, if_neg ho, hb, if_pos hi]

/-- A word with another opcode and a non-zero immediate does not decode. -/
theorem decode_reserved {t : Transaction} (ho : opcodeField t.cmd ≠ 0x20#8) (hi : imm8Field t.cmd ≠ 0#8) :
    ∃ e, decode t = .error e := by
  simp only [decode, if_neg ho]
  cases bareCommand (opcodeField t.cmd) t.opa t.opb with
  | none => exact ⟨_, rfl⟩
  | some j => exact ⟨_, if_neg hi⟩

theorem legal_of_ok {t : Transaction} {i : Instr} (h : decode t = .ok i) : legal t = true := by
  simp [legal, h]

theorem legal_of_error {t : Transaction} {e : DecodeError} (h : decode t = .error e) : legal t = false := by
  simp [legal, h]

end Sys2Proof
end

