-- ==== Sys2Proof/Laws/PerInstr.lean ====
section
/-! SUPPORT. The family of statements made of every instruction as syntax: the word of a well-formed
instruction lies in the row of the opcode map that has its mnemonic (spec/30_encoding.md R47). -/

namespace Sys2Proof.Laws.EncodedInItsRow

/-- The encoded word matches the instruction's own row of the opcode map. -/
def Statement (i : Instr) : Prop :=
  i.wf = true → ∃ row, row ∈ opcodeTable ∧ row.mnemonic = mnemonicOf i ∧ row.covers (encode i).cmd = true

/-- A row found by its place in the table. -/
theorem of_row (i : Instr) (k : Fin opcodeTable.length) (hm : (opcodeTable.get k).mnemonic = mnemonicOf i)
    (hc : (opcodeTable.get k).covers (encode i).cmd = true) : Statement i :=
  fun _ => ⟨_, List.get_mem _ k, hm, hc⟩

theorem seed (value : Word64) : Statement (.seed value) :=
  of_row _ ⟨0, by decide⟩ rfl (show (opcodeTable.get ⟨0, by decide⟩).covers 0x0100#16 = true by decide)
theorem seeddbg : Statement .seeddbg := of_row _ ⟨1, by decide⟩ rfl rfl
theorem rdstate : Statement .rdstate := of_row _ ⟨2, by decide⟩ rfl rfl
theorem evolve : Statement .evolve := of_row _ ⟨3, by decide⟩ rfl rfl
theorem sbit : Statement .sbit := of_row _ ⟨4, by decide⟩ rfl rfl

theorem suint (n : Nat) : Statement (.suint n) := by
  refine of_row _ ⟨5, by decide⟩ rfl ?_
  have h : ∀ b : Byte, (⟨"SUINT", 0x2000#16, 0xFF00#16⟩ : OpcodeRow).covers (commandWord 0x20#8 b) = true := by
    decide
  exact h _

theorem su8 : Statement .su8 := of_row _ ⟨6, by decide⟩ rfl rfl
theorem su32 : Statement .su32 := of_row _ ⟨7, by decide⟩ rfl rfl
theorem su64 : Statement .su64 := of_row _ ⟨8, by decide⟩ rfl rfl
theorem si32 : Statement .si32 := of_row _ ⟨9, by decide⟩ rfl rfl
theorem si64 : Statement .si64 := of_row _ ⟨10, by decide⟩ rfl rfl
theorem sf32 : Statement .sf32 := of_row _ ⟨11, by decide⟩ rfl rfl
theorem sf64 : Statement .sf64 := of_row _ ⟨12, by decide⟩ rfl rfl
theorem srange (a b : Word64) : Statement (.srange a b) :=
  of_row _ ⟨13, by decide⟩ rfl (show (opcodeTable.get ⟨13, by decide⟩).covers 0x4000#16 = true by decide)
theorem choose (len : Word64) : Statement (.choose len) :=
  of_row _ ⟨14, by decide⟩ rfl (show (opcodeTable.get ⟨14, by decide⟩).covers 0x4100#16 = true by decide)

end Sys2Proof.Laws.EncodedInItsRow
end

