-- ==== Sys2Proof/Laws/Run.lean ====
section
/-! SUPPORT. Runs of several steps, one step at a time. -/

namespace Sys2Proof

open Machine

theorem runSteps_zero (s : State) : runSteps 0 s = .next s := rfl

/-- A run goes on from the state its first step answers. -/
theorem runSteps_succ {s t : State} (h : step s = .next t) (k : Nat) :
    runSteps (k + 1) s = runSteps k t := by
  have h' : core.step s = .next t := h
  simp only [runSteps, Host.Core.run, h']
  rfl

/-- The register one evolution further on. -/
theorem evolved_succ {n : Nat} (k : Nat) (s : BitVec n) :
    evolved (k + 1) s = evolveCells (evolved k s) :=
  Function.iterate_succ_apply' evolveCells k s

/-- The first event of a list is taken whatever follows it. -/
theorem step_of_present {s : State} {i : Instr} {rest : List HostEvent}
    (hp : s.pending = present i :: rest) (hd : decode (encode i) = .ok i) :
    step s = exec i (setPending s rest) := by
  have hp' : s.pending = .command (encode i) :: rest := hp
  simp only [step, takeEvent_cons hp', hd]

end Sys2Proof
end

