-- ==== Sys2Proof/Tests/Slice0.lean ====
section
/-! SUPPORT. Tests and witnesses. Every expected value comes from spec/95_test_vectors.md or from the worked
example of the command's rule; each test is one step or one pure function. -/

namespace Sys2Proof.Tests

open Machine

/-! ### Helpers -/

/-- A constructed engine of configuration `c` whose register holds `v`. -/
def seededWith (c : Cfg) (v : BitVec c.n) : State := ⟨c, v, true, [], [], 1⟩

/-- CFG64 after `SEEDDBG`. -/
def dbg64 : State := seededWith cfg64 0x80000000#64

/-- CFG32 after `SEEDDBG`. -/
def dbg32 : State := seededWith cfg32 0x00010000#32

/-- CFG64 before construction; the register is arbitrary, the vectors call it unspecified. -/
def blank64 : State := ⟨cfg64, 0x1234#64, false, [], [], 1⟩

/-- The state with one event pending. -/
def facing (s : State) (e : HostEvent) : State := setPending s [e]

/-- What a test looks at: the responses, the register as a number, and `seeded`. -/
def seen (o : Host.Outcome State Fault Refusal) : Option (List Response × Nat × Bool) :=
  match o with
  | .next t => some (t.responses, t.state.toNat, t.seeded)
  | .fault _ => none
  | .refused _ => none

/-- A command that answered `r` and left the register `v` of a seeded engine. -/
def answered (r : Word64) (v : Nat) : Option (List Response × Nat × Bool) :=
  some ([⟨.ok, r⟩], v, true)

/-- A command that was rejected and left the register `v`. -/
def rejected (f : CommandFault) (v : Nat) (b : Bool) : Option (List Response × Nat × Bool) :=
  some ([⟨.fault f, 0#64⟩], v, b)

/-! ### Well-formedness -/

theorem test_wf_refuses_count_256 : (Instr.suint 256).wf = false := by decide
theorem test_wf_accepts_count_255 : (Instr.suint 255).wf = true := by decide
theorem test_cfg_wf_refuses_odd_width : (⟨33, 16, 0#33⟩ : Cfg).wf = false := by decide
theorem test_cfg_wf_refuses_empty_ring : (⟨0, 0, 0#0⟩ : Cfg).wf = false := by decide
theorem test_cfg_wf_refuses_centre_outside : (⟨32, 32, 0#32⟩ : Cfg).wf = false := by decide
theorem test_cfg_wf_accepts_both : cfg64.wf = true ∧ cfg32.wf = true := by decide

/-! ### Decoding: words written out bit by bit from R44 and R47 -/

theorem test_decode_construction :
    decode ⟨0b0000000100000000#16, 5#64, 6#64⟩ = .ok (.seed 5#64) ∧
    decode ⟨0b0000001000000000#16, 5#64, 6#64⟩ = .ok .seeddbg ∧
    decode ⟨0b0000001100000000#16, 5#64, 6#64⟩ = .ok .rdstate := by decide

theorem test_decode_engine :
    decode ⟨0b0001000000000000#16, 5#64, 6#64⟩ = .ok .evolve ∧
    decode ⟨0b0001000100000000#16, 5#64, 6#64⟩ = .ok .sbit := by decide

theorem test_decode_integer :
    decode ⟨0b0010000001000001#16, 5#64, 6#64⟩ = .ok (.suint 65) ∧
    decode ⟨0b0010000100000000#16, 5#64, 6#64⟩ = .ok .su8 ∧
    decode ⟨0b0010001000000000#16, 5#64, 6#64⟩ = .ok .su32 ∧
    decode ⟨0b0010001100000000#16, 5#64, 6#64⟩ = .ok .su64 ∧
    decode ⟨0b0010010000000000#16, 5#64, 6#64⟩ = .ok .si32 ∧
    decode ⟨0b0010010100000000#16, 5#64, 6#64⟩ = .ok .si64 := by decide

theorem test_decode_float :
    decode ⟨0b0011000000000000#16, 5#64, 6#64⟩ = .ok .sf32 ∧
    decode ⟨0b0011000100000000#16, 5#64, 6#64⟩ = .ok .sf64 := by decide

theorem test_decode_range :
    decode ⟨0b0100000000000000#16, 5#64, 6#64⟩ = .ok (.srange 5#64 6#64) ∧
    decode ⟨0b0100000100000000#16, 5#64, 6#64⟩ = .ok (.choose 5#64) := by decide

/-- Section 3.7's `ILLEGAL` words. -/
theorem test_decode_illegal :
    ([0x0000#16, 0x0101#16, 0x0400#16, 0x0F00#16, 0x1001#16, 0x1101#16, 0x1200#16, 0x2108#16, 0x2600#16,
      0x3200#16, 0x4180#16, 0x4200#16, 0x8000#16, 0xFF00#16, 0xFFFF#16].all
        fun w => !legal ⟨w, 0#64, 0#64⟩) = true := by decide

theorem test_decode_rejects_by_name :
    decode ⟨0x9900#16, 0#64, 0#64⟩ = .error (.unknownOpcode 0x99#8) ∧
    decode ⟨0x2108#16, 0#64, 0#64⟩ = .error (.reservedImm8 0x21#8 0x08#8) := by decide

theorem test_encode_suint_12 : encode (.suint 12) = ⟨0x200C#16, 0#64, 0#64⟩ := by decide

theorem test_decodeTableWord :
    decodeTableWord 16 0x200C = some (.suint 12) ∧ decodeTableWord 16 0x4000 = some (.srange 0#64 0#64) ∧
    decodeTableWord 16 0x1101 = none := by decide

/-- The command of section 3.5's `SRANGE 5, 10`, its operand words counted on from the command word. -/
theorem test_decodeTableWord_operands :
    decodeTableWord 144 (0x4000 + 5 * 2 ^ 16 + 10 * 2 ^ 80) = some (.srange 5#64 10#64) := by decide

theorem test_assembly : assembly (.srange 5#64 10#64) = "SRANGE 5, 10" := by decide

/-! ### The engine (sections 1.1, 3.1, 3.2) -/

/-- The source's five reference states, in both configurations. -/
theorem test_reference_states :
    evolved 4 (65536#32) = 1126400#32 ∧ evolved 4 (65536#64) = 1126400#64 ∧
    evolved 1 (65536#32) = 229376#32 ∧ evolved 3 (65536#64) = 1007616#64 := by decide

theorem test_evolve_wraps_at_bit_0 : seen (exec .evolve (seededWith cfg32 1#32)) = answered 0#64 0x80000003 := by
  decide
theorem test_evolve_arbitrary :
    seen (exec .evolve (seededWith cfg64 0x0123456789ABCDEF#64)) = answered 0#64 0x83F56D38DEA87421 := by decide
theorem test_sbit_first : seen (exec .sbit dbg64) = answered 1#64 0x1C0000000 := by decide
theorem test_sbit_reads_before_it_evolves :
    seen (exec .sbit (seededWith cfg64 0x260000000#64)) = answered 0#64 0x7B0000000 := by decide

/-! ### The integer composer (section 3.3) -/

theorem test_suint_12 : seen (exec (.suint 12) dbg64) = answered 0x33B#64 0x8B338980000 := by decide
theorem test_suint_33_in_cfg32 : seen (exec (.suint 33) dbg32) = answered 0x175C9A33B#64 0x65697640 := by decide
theorem test_suint_65_rejected :
    seen (exec (.suint 65) dbg64) = rejected .bitWidthExceeded 0x80000000 true := by decide
theorem test_su8 : seen (exec .su8 dbg64) = answered 0x3B#64 0x8389800000 := by decide
theorem test_su8_cfg32 : seen (exec .su8 dbg32) = answered 0x3B#64 0x01071300 := by decide
theorem test_su32 : seen (exec .su32 dbg32) = answered 0x75C9A33B#64 0xC3474C3F := by decide
theorem test_su64 : seen (exec .su64 dbg64) = answered 0xD5A986AE75C9A33B#64 0xC3DACF0A7EC62375 := by decide
theorem test_su64_cfg32 : seen (exec .su64 dbg32) = answered 0x41E17E8F75C9A33B#64 0xAEF9B2C5 := by decide
theorem test_si32_negative : seen (exec .si32 (seededWith cfg64 0x0123456789ABCDEF#64))
    = answered 0xFFFFFFFFD63BC5A3#64 0x02C182B60556D292 := by decide
theorem test_si32_positive : seen (exec .si32 dbg64) = answered 0x75C9A33B#64 0x005486231178F389 := by decide
theorem test_si64 : seen (exec .si64 dbg64) = answered 0xD5A986AE75C9A33B#64 0xC3DACF0A7EC62375 := by decide

/-! ### The float composer (section 3.4) -/

/-- The pure function of `SF32` at the corners of section 3.4. -/
theorem test_float32_corners :
    floatResult32 0x00000000#64 = 0x00000000#64 ∧ floatResult32 0x00000001#64 = 0x2F800000#64 ∧
    floatResult32 0x7FFFFFFF#64 = 0x3F000000#64 ∧ floatResult32 0x80000000#64 = 0x3F000000#64 ∧
    floatResult32 0x01000001#64 = 0x3B800000#64 ∧ floatResult32 0x01000003#64 = 0x3B800002#64 ∧
    floatResult32 0x01000002#64 = 0x3B800001#64 ∧ floatResult32 0x02000002#64 = 0x3C000000#64 ∧
    floatResult32 0x02000006#64 = 0x3C000002#64 ∧ floatResult32 0x75C9A33B#64 = 0x3EEB9346#64 ∧
    floatResult32 0xFFFFFF7F#64 = 0x3F7FFFFF#64 ∧ floatResult32 0xFFFFFF80#64 = 0x3F800000#64 ∧
    floatResult32 0xFFFFFFFF#64 = 0x3F800000#64 := by decide

/-- The pure function of `SF64` at the corners of section 3.4. -/
theorem test_float64_corners :
    floatResult64 0x0000000000000000#64 = 0x0000000000000000#64 ∧
    floatResult64 0x0000000000000001#64 = 0x3BF0000000000000#64 ∧
    floatResult64 0x8000000000000000#64 = 0x3FE0000000000000#64 ∧
    floatResult64 0x0020000000000001#64 = 0x3F40000000000000#64 ∧
    floatResult64 0x0020000000000003#64 = 0x3F40000000000002#64 ∧
    floatResult64 0xD5A986AE75C9A33B#64 = 0x3FEAB530D5CEB934#64 ∧
    floatResult64 0x41E17E8F75C9A33B#64 = 0x3FD0785FA3DD7269#64 ∧
    floatResult64 0xFFFFFFFFFFFFFBFF#64 = 0x3FEFFFFFFFFFFFFF#64 ∧
    floatResult64 0xFFFFFFFFFFFFFC00#64 = 0x3FF0000000000000#64 ∧
    floatResult64 0xFFFFFFFFFFFFFFFF#64 = 0x3FF0000000000000#64 := by decide

theorem test_sf32 : seen (exec .sf32 dbg32) = answered 0x3EEB9346#64 0xC3474C3F := by decide
theorem test_sf32_reaches_one : seen (exec .sf32 (seededWith cfg64 0xAAAAAAAAAAAAAAAA#64))
    = answered 0x3F800000#64 0xAAAAAAAAAAAAAAAA := by decide
theorem test_sf64 : seen (exec .sf64 dbg64) = answered 0x3FEAB530D5CEB934#64 0xC3DACF0A7EC62375 := by decide
theorem test_sf64_cfg32 : seen (exec .sf64 (seededWith cfg32 0x89ABCDEF#32))
    = answered 0x3FE75D50EED76868#64 0x9150306E := by decide

/-! ### Range and choice (section 3.5) -/

theorem test_srange_5_10 : seen (exec (.srange 5#64 10#64) dbg64) = answered 8#64 0xC3DACF0A7EC62375 := by decide
theorem test_srange_full : seen (exec (.srange 0#64 0xFFFFFFFFFFFFFFFF#64) dbg64)
    = answered 0xD5A986AE75C9A33B#64 0xC3DACF0A7EC62375 := by decide
theorem test_srange_result_pure :
    rangeResult 1#64 0xFFFFFFFFFFFFFFFF#64 0xD5A986AE75C9A33B#64 = 15395984885001331516#64 ∧
    rangeResult 100#64 1099#64 0xD5A986AE75C9A33B#64 = 615#64 := by decide
theorem test_choose_7 : seen (exec (.choose 7#64) dbg32) = answered 5#64 0xAEF9B2C5 := by decide
theorem test_choose_0_rejected : seen (exec (.choose 0#64) dbg64) = rejected .emptyInput 0x80000000 true := by decide

/-! ### Construction and observation (section 3.6) -/

theorem test_seed_truncates : seen (exec (.seed 0x0123456789ABCDEF#64) ⟨cfg32, 0#32, false, [], [], 1⟩)
    = answered 0#64 0x89ABCDEF := by decide
theorem test_seed_again : seen (exec (.seed 0xFFFFFFFF00000000#64) (seededWith cfg64 0x1234#64))
    = answered 0#64 0xFFFFFFFF00000000 := by decide
theorem test_seeddbg_cfg64 : seen (exec .seeddbg blank64) = answered 0#64 0x80000000 := by decide
theorem test_seeddbg_cfg32 : seen (exec .seeddbg ⟨cfg32, 0#32, false, [], [], 1⟩) = answered 0#64 0x10000 := by decide
theorem test_rdstate : seen (exec .rdstate (seededWith cfg32 0x1234#32)) = answered 0x1234#64 0x1234 := by decide
theorem test_rdstate_unseeded : seen (exec .rdstate blank64) = rejected .notSeeded 0x1234 false := by decide

/-! ### The step and the faults (section 3.7) -/

/-- `cmd = 0x1101` unseeded: `IllegalCommand` before `NotSeeded`. -/
theorem test_step_illegal_before_notSeeded :
    seen (step (blank64.withFetchWord 16 0x1101)) = rejected .illegalCommand 0x1234 false := by decide

/-- `SUINT 200` unseeded: `NotSeeded` before `BitWidthExceeded`. -/
theorem test_step_notSeeded_before_operand :
    seen (step (blank64.withFetchWord 16 0x20C8)) = rejected .notSeeded 0x1234 false := by decide

/-- `SRANGE 10, 5` seeded, through the fetch. -/
theorem test_step_invalidRange :
    seen (step (facing dbg64 (.command ⟨0x4000#16, 10#64, 5#64⟩))) = rejected .invalidRange 0x80000000 true := by
  decide

/-- The first command of a run from reset: nothing of the unspecified register is left. -/
theorem test_step_seed_from_reset :
    seen (step (facing State.reset (.command ⟨0x0100#16, 0x0123456789ABCDEF#64, 0#64⟩)))
      = answered 0#64 0x0123456789ABCDEF := by decide

/-- A reset during a command gives no response (R118). -/
theorem test_step_reset_during :
    (match step (facing dbg64 (.resetDuring ⟨0x2300#16, 0#64, 0#64⟩)) with
      | .next t => decide (t.responses = [] ∧ t.seeded = false ∧ t.pending = [])
      | .fault _ => false
      | .refused _ => false) = true := by decide

/-! ### The host's recipes -/

/-- Two cells of a ring of four: most significant bit first (R96). -/
theorem test_display_string : displayString '#' (0b0011#4) = [' ', ' ', '#', '#'] := by decide
theorem test_time_seed : timeSeedCommand 12 = .seed 144#64 := by decide

/-! ### Witnesses: for every statement with hypotheses, an input that meets them all -/

theorem witness_DecodeEncodeRoundTrip : (Instr.suint 255).wf = true ∧ (Instr.srange 7#64 9#64).wf = true := by
  decide

theorem witness_OperandsComeFromTheirPortsAlone :
    decode ⟨0x4000#16, 7#64, 9#64⟩ = .ok (.srange 7#64 9#64) ∧ decode ⟨0x4100#16, 7#64, 9#64⟩ = .ok (.choose 7#64) ∧
    decode ⟨0x0100#16, 7#64, 9#64⟩ = .ok (.seed 7#64) ∧
    ((0x1000#16 = 0x0100#16 ∨ 0x1000#16 = 0x4000#16 ∨ 0x1000#16 = 0x4100#16 → 1#64 = 2#64) ∧
      (0x1000#16 = 0x4000#16 → 3#64 = 4#64)) := by decide

theorem witness_TableRowsDecideDecoding :
    (⟨"SUINT", 0x2000#16, 0xFF00#16⟩ : OpcodeRow) ∈ opcodeTable ∧
    (⟨"SUINT", 0x2000#16, 0xFF00#16⟩ : OpcodeRow).covers 0x20FF#16 = true := by decide

theorem witness_IllegalWordsAreRejected :
    (facing blank64 (.command ⟨0xFFFF#16, 0#64, 0#64⟩)).pending = [.command ⟨0xFFFF#16, 0#64, 0#64⟩] ∧
    opcodeField 0xFFFF#16 ∉ [0x01#8, 0x02#8, 0x03#8, 0x10#8, 0x11#8, 0x20#8, 0x21#8, 0x22#8, 0x23#8,
        0x24#8, 0x25#8, 0x30#8, 0x31#8, 0x40#8, 0x41#8] ∧
    (opcodeField 0x0101#16 ≠ 0x20#8 ∧ imm8Field 0x0101#16 ≠ 0#8) := by decide

/-- All three clauses: a word that decodes, one that does not, and a command met before construction. -/
theorem witness_StepRunsDecodedInstruction :
    (facing blank64 (.command ⟨0x1100#16, 0#64, 0#64⟩)).pending = [.command ⟨0x1100#16, 0#64, 0#64⟩] ∧
    decode ⟨0x1100#16, 0#64, 0#64⟩ = .ok .sbit ∧ decode ⟨0x0000#16, 0#64, 0#64⟩ = .error (.unknownOpcode 0#8) ∧
    isSeeding .sbit = false ∧ (facing blank64 (.command ⟨0x1100#16, 0#64, 0#64⟩)).seeded = false := by decide

/-- Every clause: an illegal word, a command met unseeded with an operand fault, one met seeded. -/
theorem witness_FaultPriority :
    (facing blank64 (.command ⟨0x20C8#16, 0#64, 0#64⟩)).pending = [.command ⟨0x20C8#16, 0#64, 0#64⟩] ∧
    legal ⟨0x9900#16, 0#64, 0#64⟩ = false ∧ decode ⟨0x20C8#16, 0#64, 0#64⟩ = .ok (.suint 200) ∧
    operandFault (.suint 200) = some .bitWidthExceeded ∧ operandFault (.suint 64) = none := by decide

theorem witness_IdleHostChangesNothing : State.reset.pending = [] := by decide

/-- Both ways to be reset, and a step that clears `seeded`. -/
theorem witness_ResetUnseedsAndNothingElseDoes :
    (facing dbg64 .reset).pending = [.reset] ∧
    (facing dbg64 (.resetDuring ⟨0x2300#16, 0#64, 0#64⟩)).pending = [.resetDuring ⟨0x2300#16, 0#64, 0#64⟩] ∧
    (facing dbg64 .reset).seeded = true ∧ step (facing dbg64 .reset) = .next (takeReset dbg64) ∧
    (takeReset dbg64).seeded = false := ⟨rfl, rfl, rfl, rfl, rfl⟩

/-- A step of each kind of event, and a command that seeds nothing. -/
theorem witness_SeededFlagLifecycle :
    step dbg64 = .next dbg64 ∧ step (facing dbg64 .reset) = .next (takeReset dbg64) ∧
    (∃ t, step (facing blank64 (.command ⟨0x0200#16, 0#64, 0#64⟩)) = .next t) ∧ isSeeding .rdstate = false :=
  ⟨rfl, rfl, ⟨_, rfl⟩, rfl⟩

theorem witness_OneCommandOneResponse :
    (facing blank64 (.command ⟨0x2100#16, 0#64, 0#64⟩)).pending = [.command ⟨0x2100#16, 0#64, 0#64⟩] := rfl

theorem witness_RejectedCommandsWriteNothing :
    (facing dbg64 (.command ⟨0x4100#16, 0#64, 0#64⟩)).pending = [.command ⟨0x4100#16, 0#64, 0#64⟩] ∧
    step (facing dbg64 (.command ⟨0x4100#16, 0#64, 0#64⟩)) = .next (raise .emptyInput dbg64) ∧
    (raise .emptyInput dbg64).responses = dbg64.responses ++ [⟨.fault .emptyInput, 0#64⟩] ∧
    Status.fault .emptyInput ≠ .ok := ⟨rfl, rfl, rfl, by decide⟩

theorem witness_InvariantKeptByEveryStep : Inv (facing dbg64 (.command ⟨0x1000#16, 0#64, 0#64⟩)) ∧
    ∃ t, step (facing dbg64 (.command ⟨0x1000#16, 0#64, 0#64⟩)) = .next t :=
  ⟨⟨by decide, by intro r hr; cases hr⟩, ⟨_, rfl⟩⟩

theorem witness_InvariantAtReset : cfg32.wf = true := by decide

theorem witness_ConfigurationNeverChanges : step (facing dbg32 .reset) = .next (takeReset dbg32) := rfl

/-- The boundary operands of each command with an operand fault. -/
theorem witness_EveryCommandCompletesAtItsCost :
    dbg64.seeded = true ∧ operandFault (.suint 64) = none ∧ operandFault (.srange 5#64 5#64) = none ∧
    operandFault (.choose 1#64) = none ∧ isSeeding (.choose 1#64) = false := by decide

/-- Each of the five faults met by a step. -/
theorem witness_FaultTable :
    seen (step (facing dbg64 (.command ⟨0x0000#16, 0#64, 0#64⟩))) = rejected .illegalCommand 0x80000000 true ∧
    seen (step (facing blank64 (.command ⟨0x1000#16, 0#64, 0#64⟩))) = rejected .notSeeded 0x1234 false ∧
    seen (step (facing dbg64 (.command ⟨0x4000#16, 1#64, 0#64⟩))) = rejected .invalidRange 0x80000000 true ∧
    seen (step (facing dbg64 (.command ⟨0x4100#16, 0#64, 0#64⟩))) = rejected .emptyInput 0x80000000 true ∧
    seen (step (facing dbg64 (.command ⟨0x2041#16, 0#64, 0#64⟩))) = rejected .bitWidthExceeded 0x80000000 true := by
  decide

theorem witness_NotSeededUntilConstructed :
    isSeeding .evolve = false ∧ isSeeding .seeddbg = true ∧ blank64.seeded = false ∧ dbg64.seeded = true ∧
    step (facing dbg64 (.command ⟨0x1000#16, 0#64, 0#64⟩)) = .next (respond .ok 0#64 (evolve dbg64)) :=
  ⟨rfl, rfl, rfl, rfl, rfl⟩

/-- The two cells at the ends of the ring. -/
theorem witness_EvolutionIsCellwise : (0 < 64 ∧ 63 < 64) ∧
    (evolveCells (0x8000000000000000#64)).getLsbD 0 = true ∧ (evolveCells (1#64)).getLsbD 63 = true := by decide

/-- A constructed and an unconstructed engine: the hypotheses of every command statement
(`DrawsAndAnswers`, `RejectsSeeded`, `RejectsUnseeded`). -/
theorem witness_commands : dbg64.seeded = true ∧ dbg32.seeded = true ∧ blank64.seeded = false ∧
    dbg64.cfg.n ≤ 64 ∧ dbg32.cfg.n ≤ 64 := by decide

/-- The second clause of `EncodedBy`: another word with the opcode. -/
theorem witness_EncodedBy : opcodeField 0x1101#16 = opcodeField 0x1100#16 ∧ 0x1101#16 ≠ 0x1100#16 := by decide

theorem witness_alternating : Alternating true (0xAAAAAAAA#32) ∧ Alternating false (0x55555555#32) ∧ 32 % 2 = 0 := by
  refine ⟨?_, ?_, rfl⟩ <;> (intro i hi; interval_cases i <;> rfl)

/-- The degenerate registers of the three clauses. -/
theorem witness_DegenerateSeedsGiveConstantStreams :
    (seededWith cfg64 0#64).state = 0#64 ∧ (seededWith cfg64 (BitVec.allOnes 64)).state = BitVec.allOnes 64 ∧
    cfg64.c < cfg64.n ∧ cfg64.n % 2 = 0 := ⟨rfl, rfl, by decide, by decide⟩

theorem witness_PredecessorsOfZero : 0 < 64 := by decide

/-- The spec's own example, `s = 2^16` under CFG32 and CFG64 up to `k = 15`. -/
theorem witness_WidthsAgreeUntilTheEdge :
    (∀ i, (65536).testBit i = true → 16 ≤ i ∧ i ≤ 16) ∧ 16 < 32 ∧ 16 < 64 ∧ 15 ≤ 16 ∧ 15 ≤ 32 - 1 - 16 ∧
      15 ≤ 64 - 1 - 16 := by
  refine ⟨fun i h => ?_, by decide⟩
  have h' : (2 ^ 16).testBit i = true := h
  rw [Nat.testBit_two_pow] at h'
  have : 16 = i := by simpa using h'
  omega

theorem witness_DebugStreamsPartAfter32 : 0 < 32 ∧ 31 < 32 := by decide

/-- The boundary counts of `SUINT`. -/
theorem witness_SuintComposesOrRejects : 255 < 256 ∧ 64 < 65 ∧ 64 ≤ 64 ∧ dbg64.seeded = true := by decide

theorem witness_ConcatenationLaw : 32 + 32 ≤ 64 := by decide

/-- The largest 32-bit draws, and two in order. -/
theorem witness_floats : (0xFFFFFFFF#64).toNat < 2 ^ 32 ∧ (0xFFFFFF7F#64).toNat < 2 ^ 32 ∧
    (0xFFFFFF7F#64).toNat ≤ (0xFFFFFFFF#64).toNat := by decide

/-- The boundary operands of `SRANGE` and `CHOOSE`: equal bounds, the full range, a rejected pair, one
element. -/
theorem witness_ranges : (5#64).toNat ≤ (5#64).toNat ∧ (0#64).toNat ≤ (BitVec.allOnes 64).toNat ∧
    (0#64).toNat < (1#64).toNat ∧ 1#64 ≠ 0#64 := by decide

theorem witness_CloneRestoresTheRegister :
    dbg32.seeded = true ∧ dbg32.cfg.n ≤ 64 ∧ exec .rdstate dbg32 = .next (respond .ok 0x10000#64 dbg32) ∧
    (respond .ok 0x10000#64 dbg32).responses = dbg32.responses ++ [⟨.ok, 0x10000#64⟩] :=
  ⟨rfl, by decide, rfl, rfl⟩

theorem witness_ResetContentIsUnobservable : State.reset.seeded = false := rfl

end Sys2Proof.Tests
end

section
/-! PROOFS. Events one at a time (spec/20_memory.md R38): no command sees or touches the events behind it, so
a run of a list of events is the same whatever follows the list. -/

namespace Sys2Proof

open Machine

/-! ### Meanings that neither see nor touch the events to come -/

/-- The act neither reads the host events to come nor writes them. -/
def IgnoresPending (act : State → State) : Prop :=
  ∀ (s : State) (p : List HostEvent), act (setPending s p) = setPending (act s) p

theorem raise_ignoresPending (f : CommandFault) : IgnoresPending (raise f) := fun _ _ => rfl

theorem sampleAndRespond_ignoresPending (k : Nat) (f : Word64 → Word64) :
    IgnoresPending (sampleAndRespond k f) := fun _ _ => rfl

/-- A rejection in front of the draw. -/
theorem IgnoresPending.checked {act : State → State} (h : IgnoresPending act) (b : Bool) (f : CommandFault) :
    IgnoresPending fun s => if b then raise f s else act s := by
  cases b with
  | true => exact raise_ignoresPending f
  | false => exact h

theorem IgnoresPending.whenSeeded {act : State → State} (h : IgnoresPending act) :
    IgnoresPending (whenSeeded act) := by
  intro s p
  cases hs : s.seeded with
  | true => rw [whenSeeded_of_seeded hs, whenSeeded_of_seeded (s := setPending s p) hs, h s p]
  | false =>
    rw [whenSeeded_of_unseeded hs, whenSeeded_of_unseeded (s := setPending s p) hs, raise_ignoresPending]

/-- Every command ends in an act that ignores the events behind it. -/
theorem exec_ignoresPending (i : Instr) :
    ∃ act, IgnoresPending act ∧ ∀ s, exec i s = .next (act s) := by
  have sampling (k : Nat) (f : Word64 → Word64) :=
    (sampleAndRespond_ignoresPending k f).whenSeeded
  cases i with
  | seed v => exact ⟨_, fun _ _ => rfl, fun _ => rfl⟩
  | seeddbg => exact ⟨_, fun _ _ => rfl, fun _ => rfl⟩
  | rdstate => exact ⟨_, IgnoresPending.whenSeeded fun _ _ => rfl, fun _ => rfl⟩
  | evolve => exact ⟨_, IgnoresPending.whenSeeded fun _ _ => rfl, fun _ => rfl⟩
  | sbit => exact ⟨_, IgnoresPending.whenSeeded fun _ _ => rfl, fun _ => rfl⟩
  | suint n =>
    exact ⟨_, ((sampleAndRespond_ignoresPending n id).checked (bitCountExceeds n) _).whenSeeded, fun _ => rfl⟩
  | su8 => exact ⟨_, sampling 8 id, fun _ => rfl⟩
  | su32 => exact ⟨_, sampling 32 id, fun _ => rfl⟩
  | su64 => exact ⟨_, sampling 64 id, fun _ => rfl⟩
  | si32 => exact ⟨_, sampling 32 signedResult32, fun _ => rfl⟩
  | si64 => exact ⟨_, sampling 64 id, fun _ => rfl⟩
  | sf32 => exact ⟨_, sampling 32 floatResult32, fun _ => rfl⟩
  | sf64 => exact ⟨_, sampling 64 floatResult64, fun _ => rfl⟩
  | srange a b =>
    exact ⟨_, ((sampleAndRespond_ignoresPending rangeWidth (rangeResult a b)).checked
      (rangeInvalid a b) _).whenSeeded, fun _ => rfl⟩
  | choose len =>
    exact ⟨_, ((sampleAndRespond_ignoresPending rangeWidth (chooseResult len)).checked
      (sequenceEmpty len) _).whenSeeded, fun _ => rfl⟩

/-! ### Steps and runs -/

/-- A step takes the next event, whichever it is, and leads to one state whatever events are behind it. -/
theorem step_setPending_cons (e : HostEvent) (s : State) :
    ∃ t, ∀ rest, step (setPending s (e :: rest)) = .next (setPending t rest) := by
  cases e with
  | reset => exact ⟨takeReset s, fun _ => rfl⟩
  | resetDuring c => exact ⟨takeReset s, fun _ => rfl⟩
  | command c =>
    cases hd : decode c with
    | error err =>
      refine ⟨raise .illegalCommand s, fun rest => ?_⟩
      simp only [step, takeEvent_cons (setPending_pending s _), hd]
      exact congrArg Host.Outcome.next (raise_ignoresPending .illegalCommand s rest)
    | ok i =>
      obtain ⟨act, hact, hexec⟩ := exec_ignoresPending i
      refine ⟨act s, fun rest => ?_⟩
      simp only [step, takeEvent_cons (setPending_pending s _), hd, hexec]
      exact congrArg Host.Outcome.next (hact s rest)

/-- Running a list of events leads to one state, whatever follows the list, and the run goes on from that
state with what follows. -/
theorem runSteps_append (evs : List HostEvent) (s : State) :
    ∃ t : State, ∀ (rest : List HostEvent) (k : Nat),
      runSteps (evs.length + k) (setPending s (evs ++ rest)) = runSteps k (setPending t rest) := by
  induction evs generalizing s with
  | nil => exact ⟨s, fun rest k => by rw [List.length_nil, Nat.zero_add, List.nil_append]⟩
  | cons e evs ih =>
    obtain ⟨s₁, hstep⟩ := step_setPending_cons e s
    obtain ⟨t, hrun⟩ := ih s₁
    refine ⟨t, fun rest k => ?_⟩
    rw [List.length_cons, Nat.add_right_comm, List.cons_append, runSteps_succ (hstep (evs ++ rest)), hrun]

/-- The state a list of events leads to is where the run of that list alone stops, with nothing left. -/
theorem runSteps_alone_append (evs : List HostEvent) (s : State) :
    ∃ t : State, t.pending = [] ∧ runSteps evs.length (setPending s evs) = .next t ∧
      ∀ (rest : List HostEvent) (k : Nat),
        runSteps (evs.length + k) (setPending s (evs ++ rest)) = runSteps k (setPending t rest) := by
  obtain ⟨t, hrun⟩ := runSteps_append evs s
  refine ⟨setPending t [], rfl, ?_, hrun⟩
  simpa only [List.append_nil, Nat.add_zero, runSteps_zero] using hrun [] 0

/-- Settles O51: the first list leads to one state `t` whatever follows it, and the second starts there. -/
theorem commandsTakeEffectInOrder : Obligations.CommandsTakeEffectInOrder := by
  intro s first second
  obtain ⟨t, ht, hfirst, hthen⟩ := runSteps_alone_append first s
  obtain ⟨u, hu, hsecond, -⟩ := runSteps_alone_append second t
  exact ⟨t, u, hfirst, ht, hthen second 0, hsecond, hu, (hthen second second.length).trans hsecond⟩

end Sys2Proof
end

section
/-! PROOFS. What one presented command does (spec/30_encoding.md R42, R48, R49, R53): the step is the execution of
the decoded command, or the rejection of an illegal word. -/

namespace Sys2Proof

open Machine

/-! ### The step at a presented command -/

/-- A word that decodes is executed on the machine with the event taken off the list. -/
theorem step_of_decode_ok {s : State} {t : Transaction} {rest : List HostEvent} {i : Instr}
    (hp : s.pending = .command t :: rest) (hd : decode t = .ok i) :
    step s = exec i (setPending s rest) := by
  simp only [step, takeEvent_cons hp, hd]

/-- A word that does not decode is answered `IllegalCommand`. -/
theorem step_of_decode_error {s : State} {t : Transaction} {rest : List HostEvent} {e : DecodeError}
    (hp : s.pending = .command t :: rest) (hd : decode t = .error e) :
    step s = .next (raise .illegalCommand (setPending s rest)) := by
  simp only [step, takeEvent_cons hp, hd, rejectIllegal]

/-- Settles O14: an illegal word is answered by its rejection, any other by `exec`, which gives one response. -/
theorem oneCommandOneResponse : Obligations.OneCommandOneResponse := by
  intro s t rest hp
  cases hd : decode t with
  | error e => exact ⟨s.state, s.seeded, _, step_of_decode_error hp hd⟩
  | ok i =>
    obtain ⟨v, b, r, hexec⟩ := exec_shape i (setPending s rest)
    exact ⟨v, b, r, (step_of_decode_ok hp hd).trans hexec⟩

/-- A command that is no seeding command is neither `SEED` nor `SEEDDBG`. -/
theorem ne_seed_of_not_isSeeding {i : Instr} (hi : isSeeding i = false) : (∀ v, i ≠ .seed v) ∧ i ≠ .seeddbg := by
  constructor
  · rintro v rfl
    cases hi
  · rintro rfl
    cases hi

/-- Settles O7: the two ways a presented word can go, and the check of `seeded` inside `exec`. -/
theorem stepRunsDecodedInstruction : Obligations.StepRunsDecodedInstruction := by
  intro s t rest hp
  refine ⟨fun i hd => step_of_decode_ok hp hd, fun e hd => step_of_decode_error hp hd, fun i hd hi hs => ?_⟩
  have hs' : (setPending s rest).seeded = false := hs
  exact (step_of_decode_ok hp hd).trans (exec_unseeded hs' (ne_seed_of_not_isSeeding hi))

/-! ### Illegal words -/

/-- A word that decodes has one of the fifteen opcodes. -/
theorem opcodeField_mem_of_decode_ok {t : Transaction} {i : Instr} (h : decode t = .ok i) :
    opcodeField t.cmd ∈ [0x01#8, 0x02#8, 0x03#8, 0x10#8, 0x11#8, 0x20#8, 0x21#8, 0x22#8, 0x23#8,
      0x24#8, 0x25#8, 0x30#8, 0x31#8, 0x40#8, 0x41#8] := by
  obtain ⟨ho, -⟩ | ⟨-, -, hb⟩ := decode_ok_cases h
  · simp [ho]
  · rcases bareCommand_cases hb with ⟨ho, -⟩ | ⟨ho, -⟩ | ⟨ho, -⟩ | ⟨ho, -⟩ | ⟨ho, -⟩ | ⟨ho, -⟩ | ⟨ho, -⟩ | ⟨ho, -⟩ |
      ⟨ho, -⟩ | ⟨ho, -⟩ | ⟨ho, -⟩ | ⟨ho, -⟩ | ⟨ho, -⟩ | ⟨ho, -⟩ <;> simp [ho]

/-- Settles O4: neither kind of word decodes, so the step is the rejection. -/
theorem illegalWordsAreRejected : Obligations.IllegalWordsAreRejected := by
  intro s t rest hp hw
  have hillegal : ∃ e, decode t = .error e := by
    rcases hw with hop | ⟨hop, himm⟩
    · cases hd : decode t with
      | error e => exact ⟨e, rfl⟩
      | ok i => exact absurd (opcodeField_mem_of_decode_ok hd) hop
    · exact decode_reserved hop himm
  obtain ⟨e, hd⟩ := hillegal
  exact step_of_decode_error hp hd

end Sys2Proof
end

section
/-! PROOFS. The opcode map (spec/30_encoding.md R47): a decoded word lies in the row of its command, a word in a row
decodes to the row's command, and so no word lies in two rows. -/

namespace Sys2Proof

/-! ### From the decoder to the table -/

/-- A decoded command is well formed and its own word is the word it was decoded from. -/
theorem wf_and_encode_cmd_of_decode {t : Transaction} {i : Instr} (h : decode t = .ok i) :
    i.wf = true ∧ (encode i).cmd = t.cmd := by
  obtain ⟨ho, rfl⟩ | ⟨-, himm, hb⟩ := decode_ok_cases h
  · refine ⟨decide_eq_true (imm8Field t.cmd).isLt, ?_⟩
    simp only [encode, BitVec.ofNat_toNat, BitVec.setWidth_eq, ← ho, commandWord_fields]
  · rcases bareCommand_cases hb with ⟨ho, rfl⟩ | ⟨ho, rfl⟩ | ⟨ho, rfl⟩ | ⟨ho, rfl⟩ | ⟨ho, rfl⟩ | ⟨ho, rfl⟩ |
      ⟨ho, rfl⟩ | ⟨ho, rfl⟩ | ⟨ho, rfl⟩ | ⟨ho, rfl⟩ | ⟨ho, rfl⟩ | ⟨ho, rfl⟩ | ⟨ho, rfl⟩ | ⟨ho, rfl⟩ <;>
    exact ⟨rfl, (eq_commandWord ho himm).symm⟩

/-- Every instruction's word lies in the row with its mnemonic. -/
theorem encoded_in_its_row (i : Instr) : Laws.EncodedInItsRow.Statement i := by
  cases i with
  | seed v => exact Laws.EncodedInItsRow.seed v
  | seeddbg => exact Laws.EncodedInItsRow.seeddbg
  | rdstate => exact Laws.EncodedInItsRow.rdstate
  | evolve => exact Laws.EncodedInItsRow.evolve
  | sbit => exact Laws.EncodedInItsRow.sbit
  | suint n => exact Laws.EncodedInItsRow.suint n
  | su8 => exact Laws.EncodedInItsRow.su8
  | su32 => exact Laws.EncodedInItsRow.su32
  | su64 => exact Laws.EncodedInItsRow.su64
  | si32 => exact Laws.EncodedInItsRow.si32
  | si64 => exact Laws.EncodedInItsRow.si64
  | sf32 => exact Laws.EncodedInItsRow.sf32
  | sf64 => exact Laws.EncodedInItsRow.sf64
  | srange a b => exact Laws.EncodedInItsRow.srange a b
  | choose len => exact Laws.EncodedInItsRow.choose len

/-- A word that decodes lies in the row of its command. -/
theorem covered_of_decode_ok {t : Transaction} {i : Instr} (h : decode t = .ok i) :
    ∃ row ∈ opcodeTable, row.mnemonic = mnemonicOf i ∧ row.covers t.cmd = true := by
  obtain ⟨hwf, hcmd⟩ := wf_and_encode_cmd_of_decode h
  obtain ⟨row, hrow, hname, hcov⟩ := encoded_in_its_row i hwf
  exact ⟨row, hrow, hname, hcmd ▸ hcov⟩

/-! ### From the table to the decoder -/

/-- No two rows have one mnemonic. -/
theorem row_eq_of_mnemonic_eq :
    ∀ r₁ ∈ opcodeTable, ∀ r₂ ∈ opcodeTable, r₁.mnemonic = r₂.mnemonic → r₁ = r₂ := by
  decide

/-- A row is `SUINT`'s, or it is a single word with a zero immediate and the opcode of a bare command. -/
theorem opcodeTable_cases {row : OpcodeRow} (h : row ∈ opcodeTable) :
    row = ⟨"SUINT", 0x2000#16, 0xFF00#16⟩ ∨
    (row.mask = BitVec.allOnes 16 ∧ imm8Field row.pattern = 0#8 ∧ opcodeField row.pattern ≠ 0x20#8 ∧
      ∀ opa opb, ∃ i, bareCommand (opcodeField row.pattern) opa opb = some i ∧ mnemonicOf i = row.mnemonic) := by
  simp only [opcodeTable, List.mem_cons, List.not_mem_nil, or_false] at h
  rcases h with rfl | rfl | rfl | rfl | rfl | rfl | rfl | rfl | rfl | rfl | rfl | rfl | rfl | rfl | rfl
  pick_goal 6 -- `SUINT`'s place in the table
  · exact .inl rfl
  all_goals exact .inr ⟨rfl, rfl, by decide, fun _ _ => ⟨_, rfl, rfl⟩⟩

/-- `SUINT`'s row is its opcode, whatever the immediate. -/
theorem opcodeField_of_suint_row {w : CmdWord} (h : w &&& 0xFF00#16 = 0x2000#16) : opcodeField w = 0x20#8 := by
  calc opcodeField w = opcodeField (w &&& 0xFF00#16) := by
        simp only [opcodeField, BitVec.extractLsb'_and]
        exact (BitVec.and_allOnes).symm
    _ = 0x20#8 := by rw [h]; rfl

/-- A word in a row decodes to the row's command, whatever the operands. -/
theorem decode_of_covers {t : Transaction} {row : OpcodeRow} (hrow : row ∈ opcodeTable)
    (hcov : t.cmd &&& row.mask = row.pattern) : ∃ i, decode t = .ok i ∧ mnemonicOf i = row.mnemonic := by
  obtain rfl | ⟨hmask, himm, hop, hbare⟩ := opcodeTable_cases hrow
  · exact ⟨_, decode_suint (opcodeField_of_suint_row hcov), rfl⟩
  · have hw : t.cmd = row.pattern := by rw [← hcov, hmask, BitVec.and_allOnes]
    obtain ⟨i, hi, hname⟩ := hbare t.opa t.opb
    rw [← hw] at himm hop hi
    exact ⟨i, decode_bare hop himm hi, hname⟩

/-- Settles O3: decoding is a function of the transaction, so a word in two rows would have a command with both
mnemonics, and the mnemonics differ. -/
theorem tableRowsDecideDecoding : Obligations.TableRowsDecideDecoding := by
  refine ⟨fun t row hrow => ⟨?_, decode_of_covers hrow⟩, fun w r₁ r₂ h₁ h₂ hc₁ hc₂ => ?_⟩
  · rintro ⟨i, hd, hname⟩
    obtain ⟨row', hrow', hname', hcov⟩ := covered_of_decode_ok hd
    obtain rfl := row_eq_of_mnemonic_eq row' hrow' row hrow (hname'.trans hname)
    exact of_decide_eq_true hcov
  · obtain ⟨i, hd, hname₁⟩ := decode_of_covers (t := ⟨w, 0#64, 0#64⟩) h₁ (of_decide_eq_true hc₁)
    obtain ⟨j, hd', hname₂⟩ := decode_of_covers (t := ⟨w, 0#64, 0#64⟩) h₂ (of_decide_eq_true hc₂)
    obtain rfl : i = j := Except.ok.inj (hd.symm.trans hd')
    exact row_eq_of_mnemonic_eq r₁ h₁ r₂ h₂ (hname₁.symm.trans hname₂)

end Sys2Proof
end

section
/-! PROOFS. The operand ports (spec/30_encoding.md R46): which command reads which port, and that decoding reads no
other. -/

namespace Sys2Proof

open Machine

/-- The operands of a decoded command are the ports listed for it. -/
theorem operands_of_decode_ok {t : Transaction} {i : Instr} (h : decode t = .ok i) :
    (∀ v, i = .seed v → v = t.opa) ∧ (∀ a b, i = .srange a b → a = t.opa ∧ b = t.opb) ∧
    (∀ len, i = .choose len → len = t.opa) := by
  obtain ⟨-, rfl⟩ | ⟨-, -, hb⟩ := decode_ok_cases h
  · simp
  · have hcases := bareCommand_cases hb
    refine ⟨?_, ?_, ?_⟩
    · rintro v rfl
      have hseed : opcodeField t.cmd = 0x01#8 ∧ v = t.opa := by simpa using hcases
      exact hseed.2
    · rintro a b rfl
      have hrange : opcodeField t.cmd = 0x40#8 ∧ a = t.opa ∧ b = t.opb := by simpa using hcases
      exact hrange.2
    · rintro len rfl
      have hchoose : opcodeField t.cmd = 0x41#8 ∧ len = t.opa := by simpa using hcases
      exact hchoose.2

/-- A bare command depends on `opa` for `SEED`, `SRANGE` and `CHOOSE` alone, and on `opb` for `SRANGE` alone. -/
theorem bareCommand_congr {op : Byte} {opa opb opa' opb' : Word64}
    (ha : op = 0x01#8 ∨ op = 0x40#8 ∨ op = 0x41#8 → opa = opa') (hb : op = 0x40#8 → opb = opb') :
    bareCommand op opa opb = bareCommand op opa' opb' := by
  by_cases hseed : op = 0x01#8
  · rw [bareCommand, bareCommand, if_pos hseed, if_pos hseed, ha (.inl hseed)]
  by_cases hrange : op = 0x40#8
  · rw [ha (.inr (.inl hrange)), hb hrange]
  by_cases hchoose : op = 0x41#8
  · subst hchoose
    exact congrArg (fun len => some (Instr.choose len)) (ha (.inr (.inr rfl)))
  · simp only [bareCommand, if_neg hseed, if_neg hrange, if_neg hchoose]

/-- A word with another opcode than `SUINT`'s and a non-zero immediate is rejected, by a name that says whether its
opcode has a command. -/
theorem decode_of_imm8_ne_zero {t : Transaction} (ho : opcodeField t.cmd ≠ 0x20#8) (hi : imm8Field t.cmd ≠ 0#8) :
    decode t = .error (if (bareCommand (opcodeField t.cmd) t.opa t.opb).isSome
      then .reservedImm8 (opcodeField t.cmd) (imm8Field t.cmd) else .unknownOpcode (opcodeField t.cmd)) := by
  simp only [decode, if_neg ho, if_neg hi]
  cases bareCommand (opcodeField t.cmd) t.opa t.opb <;> rfl

/-- Transactions with one word that agree on the ports listed for its command decode alike. -/
theorem decode_congr {cmd : CmdWord} {opa opb opa' opb' : Word64}
    (ha : cmd = 0x0100#16 ∨ cmd = 0x4000#16 ∨ cmd = 0x4100#16 → opa = opa') (hb : cmd = 0x4000#16 → opb = opb') :
    decode ⟨cmd, opa, opb⟩ = decode ⟨cmd, opa', opb'⟩ := by
  by_cases ho : opcodeField cmd = 0x20#8
  · exact (decode_suint (t := ⟨cmd, opa, opb⟩) ho).trans (decode_suint (t := ⟨cmd, opa', opb'⟩) ho).symm
  by_cases hi : imm8Field cmd = 0#8
  · have hword (op : Byte) (h : opcodeField cmd = op) : cmd = commandWord op 0#8 := eq_commandWord h hi
    have hbare : bareCommand (opcodeField cmd) opa opb = bareCommand (opcodeField cmd) opa' opb' :=
      bareCommand_congr (fun h => ha (h.imp (hword _) (Or.imp (hword _) (hword _)))) (fun h => hb (hword _ h))
    simp only [decode, hbare]
  · rw [decode_of_imm8_ne_zero (t := ⟨cmd, opa, opb⟩) ho hi, decode_of_imm8_ne_zero (t := ⟨cmd, opa', opb'⟩) ho hi,
      bareCommand_isSome _ opa opb opa' opb']

/-- Settles O2: the ports of a decoded command, the ports that decoding ignores, and the truncation of `SEED`. -/
theorem operandsComeFromTheirPortsAlone : Obligations.OperandsComeFromTheirPortsAlone := by
  refine ⟨fun t i h => operands_of_decode_ok h, fun cmd opa opb opa' opb' ha hb => decode_congr ha hb,
    fun s v => ⟨_, rfl, rfl, fun i => ?_⟩⟩
  exact BitVec.getLsbD_setWidth ..

end Sys2Proof
end

section
/-! PROOFS. The automaton engine (spec/40_engine.md R57 to R59): the evolution function bit by bit, and the commands
`EVOLVE` and `SBIT`. -/

namespace Sys2Proof

open Machine

/-! ### The evolution function, bit by bit -/

/-- One rotation to the left brings to each cell its left neighbour on the ring (R9, R56). -/
theorem getLsbD_rotateLeft_one {n : Nat} (s : BitVec n) {i : Nat} (hi : i < n) :
    (s.rotateLeft 1).getLsbD i = s.getLsbD ((i + n - 1) % n) := by
  obtain rfl | hn : n = 1 ∨ 1 < n := by omega
  · obtain rfl : i = 0 := by omega
    simp
  rw [BitVec.getLsbD_rotateLeft, Nat.mod_eq_of_lt hn]
  obtain rfl | hpos := Nat.eq_zero_or_pos i
  · simp
  · have hprev : (i + n - 1) % n = i - 1 := by
      rw [show i + n - 1 = i - 1 + n by omega, Nat.add_mod_right, Nat.mod_eq_of_lt (by omega)]
    simp [hprev, hi, Nat.ne_of_gt hpos]

/-- One rotation to the right brings to each cell its right neighbour on the ring (R9, R56). -/
theorem getLsbD_rotateRight_one {n : Nat} (s : BitVec n) {i : Nat} (hi : i < n) :
    (s.rotateRight 1).getLsbD i = s.getLsbD ((i + 1) % n) := by
  obtain rfl | hn : n = 1 ∨ 1 < n := by omega
  · obtain rfl : i = 0 := by omega
    simp
  rw [BitVec.getLsbD_rotateRight, Nat.mod_eq_of_lt hn]
  obtain hlt | rfl : i < n - 1 ∨ i = n - 1 := by omega
  · have hnext : (i + 1) % n = 1 + i := by rw [Nat.mod_eq_of_lt (by omega), Nat.add_comm]
    simp [hnext, hlt]
  · simp [hi, Nat.sub_add_cancel hn.le]

/-- The two rotations make the evolution function the cell rule (R57). -/
theorem getLsbD_evolveCells {n : Nat} (s : BitVec n) {i : Nat} (hi : i < n) :
    (evolveCells s).getLsbD i = cellRule s i := by
  rw [evolveCells, BitVec.getLsbD_xor, BitVec.getLsbD_or, getLsbD_rotateLeft_one s hi, getLsbD_rotateRight_one s hi,
    cellRule]

/-- Settles O22: the rotations bring the two neighbours. -/
theorem evolutionIsCellwise : Obligations.EvolutionIsCellwise :=
  fun _ s _ hi => getLsbD_evolveCells s hi

/-- A register of which every cell evolves to `t`'s cell evolves to `t`. -/
theorem evolveCells_eq {n : Nat} {s t : BitVec n} (h : ∀ i, i < n → cellRule s i = t.getLsbD i) :
    evolveCells s = t :=
  BitVec.eq_of_getLsbD_eq fun i hi => (getLsbD_evolveCells s hi).trans (h i hi)

@[simp] theorem evolveCells_zero (n : Nat) : evolveCells (0#n) = 0#n :=
  evolveCells_eq fun i _ => by simp [cellRule]

@[simp] theorem evolveCells_allOnes (n : Nat) : evolveCells (BitVec.allOnes n) = 0#n :=
  evolveCells_eq fun i hi => by
    have hpos : 0 < n := by omega
    simp [cellRule, hi, Nat.mod_lt _ hpos]

/-- The neighbours of a cell of an even ring have the other parity than the cell. -/
theorem ring_neighbours_parity {n : Nat} (i : Nat) (hn : n % 2 = 0) (hpos : 0 < n) :
    (i + n - 1) % n % 2 = 1 - i % 2 ∧ (i + 1) % n % 2 = 1 - i % 2 := by
  have hdvd : 2 ∣ n := Nat.dvd_of_mod_eq_zero hn
  rw [Nat.mod_mod_of_dvd _ hdvd, Nat.mod_mod_of_dvd _ hdvd]
  omega

/-- In an alternating pattern both neighbours of a cell are its complement, so the cell keeps its value (R58). -/
theorem evolveCells_alternating {n : Nat} {odd : Bool} {s : BitVec n} (hn : n % 2 = 0) (hs : Alternating odd s) :
    evolveCells s = s :=
  evolveCells_eq fun i hi => by
    have hpos : 0 < n := by omega
    have hcompl (j : Nat) (hj : j < n) (hij : j % 2 = 1 - i % 2) : s.getLsbD j = !s.getLsbD i := by
      rw [hs j hj, hs i hi, hij]
      rcases Nat.mod_two_eq_zero_or_one i with h | h <;> simp [h]
    obtain ⟨hleft, hright⟩ := ring_neighbours_parity i hn hpos
    rw [cellRule, hcompl _ (Nat.mod_lt _ hpos) hleft, hcompl _ (Nat.mod_lt _ hpos) hright]
    cases s.getLsbD i <;> rfl

/-! ### The commands -/

/-- A bare command's word is its opcode with a zero immediate, and no other word with that opcode is legal
(R47, R49). -/
theorem encodedBy_of_bareCommand {op : Byte} {i : Word64 → Word64 → Instr} (hop : op ≠ 0x20#8)
    (hbare : ∀ opa opb, bareCommand op opa opb = some (i opa opb)) : EncodedBy (commandWord op 0#8) i := by
  have hfield : opcodeField (commandWord op 0#8) = op := opcodeField_commandWord op 0#8
  refine ⟨fun opa opb => ?_, fun v hv hne opa opb => ?_⟩
  · exact decode_bare (hfield.trans_ne hop) (imm8Field_commandWord op 0#8) (by rw [hfield, hbare])
  · have hvop : opcodeField v = op := hv.trans hfield
    have himm : imm8Field v ≠ 0#8 := fun h => hne (eq_commandWord hvop h)
    obtain ⟨e, he⟩ := decode_reserved (t := ⟨v, opa, opb⟩) (hvop.trans_ne hop) himm
    exact legal_of_error he

/-- Every command but the seeding ones is rejected before construction (R104). -/
theorem rejectsUnseeded_of_not_isSeeding {i : Instr} (hi : isSeeding i = false) : RejectsUnseeded i :=
  fun _ hs => exec_unseeded hs (ne_seed_of_not_isSeeding hi)

/-- After construction `EVOLVE` evolves the register and answers 0 (R58). -/
theorem exec_evolve_of_seeded {s : State} (hs : s.seeded = true) :
    exec .evolve s = .next (respond .ok 0#64 (evolve s)) :=
  congrArg Host.Outcome.next (whenSeeded_of_seeded hs)

/-- After construction `SBIT` answers the centre bit and evolves the register (R59). -/
theorem exec_sbit_of_seeded {s : State} (hs : s.seeded = true) :
    exec .sbit s = .next (respond .ok (bitResult (centreBit s)) (evolve s)) :=
  congrArg Host.Outcome.next (whenSeeded_of_seeded hs)

/-- Settles O23: the register after `EVOLVE` is the evolved one, whose cells follow the cell rule. -/
theorem evolveAdvancesOneStep : Obligations.EvolveAdvancesOneStep := by
  refine ⟨encodedBy_of_bareCommand (op := 0x10#8) (by decide) fun _ _ => rfl,
    rejectsUnseeded_of_not_isSeeding rfl, fun s hs => ?_, fun n => ⟨evolveCells_zero n, evolveCells_allOnes n⟩,
    fun _ _ _ hn hs => evolveCells_alternating hn hs⟩
  exact ⟨evolveCells s.state, fun i hi => getLsbD_evolveCells s.state hi, exec_evolve_of_seeded hs⟩

theorem bitResult_eq_ite (b : Bool) : bitResult b = if b then 1#64 else 0#64 := by
  cases b <;> rfl

/-- A draw of one bit is the centre bit alone. -/
theorem drawn_one (s : State) : drawn 1 s = bitResult (centreBit s) := by
  simp only [drawn, drawBits_succ, drawBits_zero, placeBit, bitResult, centreBit, BitVec.shiftLeft_zero,
    BitVec.zero_or]

/-- `SBIT` is `SUINT 1`, before construction and after (R59). -/
theorem exec_sbit_eq_suint_one (s : State) : exec .sbit s = exec (.suint 1) s := by
  cases hs : s.seeded with
  | false => rw [rejectsUnseeded_of_not_isSeeding rfl s hs, rejectsUnseeded_of_not_isSeeding rfl s hs]
  | true =>
    have hsuint : exec (.suint 1) s = .next (sampleAndRespond 1 id s) :=
      congrArg Host.Outcome.next (whenSeeded_of_seeded hs)
    rw [exec_sbit_of_seeded hs, hsuint, sampleAndRespond, drawn_one]
    rfl

/-- Settles O24: `SBIT` evolves as `EVOLVE` does, and answers the bit it read before. -/
theorem sbitSamplesThenEvolves : Obligations.SbitSamplesThenEvolves := by
  refine ⟨encodedBy_of_bareCommand (op := 0x11#8) (by decide) fun _ _ => rfl,
    rejectsUnseeded_of_not_isSeeding rfl, fun s hs => ?_, exec_sbit_eq_suint_one⟩
  refine ⟨evolveCells s.state, fun i hi => getLsbD_evolveCells s.state hi, ?_⟩
  rw [exec_sbit_of_seeded hs, bitResult_eq_ite]
  rfl

end Sys2Proof
end

section
/-! PROOFS. What a command reads (spec/40_engine.md R62): the register, `seeded`, the configuration and its operands,
and nothing of the host's side or of the past. -/

namespace Sys2Proof

open Machine

/-- The same machine with another host in front of it and another past behind it. -/
def withSurroundings (s : State) (p : List HostEvent) (rs : List Response) (k : Nat) : State :=
  { s with pending := p, responses := rs, resets := k }

/-- The register and flag the act leaves and the one response it adds are settled by the configuration, the register
and the flag it starts from. -/
def AnswersFromItself (act : State → State) : Prop :=
  ∀ s : State, ∃ v b r, ∀ p rs k,
    act (withSurroundings s p rs k) =
      { s with state := v, seeded := b, pending := p, responses := rs ++ [r], resets := k }

theorem raise_answersFromItself (f : CommandFault) : AnswersFromItself (raise f) :=
  fun s => ⟨s.state, s.seeded, ⟨.fault f, 0#64⟩, fun _ _ _ => rfl⟩

theorem sampleAndRespond_answersFromItself (k : Nat) (f : Word64 → Word64) :
    AnswersFromItself (sampleAndRespond k f) :=
  fun s => ⟨(drawBits s.cfg.c k s.state).2, s.seeded, ⟨.ok, f (drawn k s)⟩, fun _ _ _ => rfl⟩

/-- A rejection in front of the draw that looks at the operands alone. -/
theorem AnswersFromItself.checked {act : State → State} (h : AnswersFromItself act) (c : Bool) (f : CommandFault) :
    AnswersFromItself fun s => if c then raise f s else act s := by
  cases c with
  | true => exact raise_answersFromItself f
  | false => exact h

theorem AnswersFromItself.whenSeeded {act : State → State} (h : AnswersFromItself act) :
    AnswersFromItself (whenSeeded act) := by
  intro s
  cases hs : s.seeded with
  | true =>
    obtain ⟨v, b, r, hact⟩ := h s
    exact ⟨v, b, r, fun p rs k =>
      (whenSeeded_of_seeded (s := withSurroundings s p rs k) hs).trans (hact p rs k)⟩
  | false =>
    obtain ⟨v, b, r, hraise⟩ := raise_answersFromItself .notSeeded s
    exact ⟨v, b, r, fun p rs k =>
      (whenSeeded_of_unseeded (s := withSurroundings s p rs k) hs).trans (hraise p rs k)⟩

/-- Every command ends in an act that reads the register, the flag, the configuration and its operands alone. -/
theorem exec_answersFromItself (i : Instr) :
    ∃ act, AnswersFromItself act ∧ ∀ s, exec i s = .next (act s) := by
  cases i with
  | seed value =>
    exact ⟨_, fun s => ⟨seedValue s.cfg.n value, true, ⟨.ok, 0#64⟩, fun _ _ _ => rfl⟩, fun _ => rfl⟩
  | seeddbg => exact ⟨_, fun s => ⟨s.cfg.debugSeed, true, ⟨.ok, 0#64⟩, fun _ _ _ => rfl⟩, fun _ => rfl⟩
  | rdstate =>
    exact ⟨_, AnswersFromItself.whenSeeded fun s =>
      ⟨s.state, s.seeded, ⟨.ok, stateResult s.state⟩, fun _ _ _ => rfl⟩, fun _ => rfl⟩
  | evolve =>
    exact ⟨_, AnswersFromItself.whenSeeded fun s =>
      ⟨evolveCells s.state, s.seeded, ⟨.ok, 0#64⟩, fun _ _ _ => rfl⟩, fun _ => rfl⟩
  | sbit =>
    exact ⟨_, AnswersFromItself.whenSeeded fun s =>
      ⟨evolveCells s.state, s.seeded, ⟨.ok, bitResult (centreBit s)⟩, fun _ _ _ => rfl⟩, fun _ => rfl⟩
  | su8 | su32 | su64 | si32 | si64 | sf32 | sf64 =>
    exact ⟨_, (sampleAndRespond_answersFromItself _ _).whenSeeded, fun _ => rfl⟩
  | suint _ | srange _ _ | choose _ =>
    exact ⟨_, ((sampleAndRespond_answersFromItself _ _).checked _ _).whenSeeded, fun _ => rfl⟩

/-- Settles O50: the act answers alike in any surroundings, those of `s` itself among them. -/
theorem responsesAreDetermined : Obligations.ResponsesAreDetermined := by
  intro i s
  obtain ⟨act, hact, hexec⟩ := exec_answersFromItself i
  obtain ⟨v, b, r, hanswer⟩ := hact s
  exact ⟨v, b, r, (hexec s).trans (congrArg _ (hanswer s.pending s.responses s.resets)),
    fun p rs k => (hexec _).trans (congrArg _ (hanswer p rs k))⟩

end Sys2Proof
end

section
/-! PROOFS. The integer composer (spec/41_integer_composer.md R64 to R70): a draw composes the sampled stream, and the
six commands that answer one. -/

namespace Sys2Proof

open Machine

/-! ### The draw -/

/-- A draw of `k` bits leaves the register `k` evolutions on (R64). -/
theorem drawBits_snd {n : Nat} (c k : Nat) (s : BitVec n) : (drawBits c k s).2 = evolved k s := by
  induction k with
  | zero => rfl
  | succ k ih => rw [drawBits_succ, evolved_succ, ih]

/-- A draw of `k` bits has at bit `i` the centre bit of the register `i` evolutions on, and 0 from bit `k` on (R64). -/
theorem getLsbD_drawBits {n : Nat} (c i : Nat) (s : BitVec n) {k : Nat} (hk : k ≤ 64) :
    (drawBits c k s).1.getLsbD i = (decide (i < k) && (evolved i s).getLsbD c) := by
  induction k with
  | zero => simp [drawBits_zero]
  | succ k ih =>
    rw [drawBits_succ, getLsbD_placeBit, ih (by omega), drawBits_snd]
    obtain hlt | rfl | hgt := Nat.lt_trichotomy i k
    · simp [hlt, hlt.ne, Nat.lt_succ_of_lt hlt]
    · simp [show i < 64 by omega]
    · simp [show ¬ i < k by omega, hgt.ne', show ¬ i < k + 1 by omega]

theorem composedFrom_drawn (s : State) {k : Nat} (hk : k ≤ 64) : ComposedFrom s k (drawn k s) :=
  fun i => getLsbD_drawBits s.cfg.c i s.state hk

theorem afterDraw_eq (k : Nat) (s : State) : afterDraw k s = { s with state := evolved k s.state } :=
  congrArg (setState s) (drawBits_snd s.cfg.c k s.state)

/-- Settles O32: by induction on the turns of the loop, for the value and for the register. -/
theorem drawComposesTheStream : Obligations.DrawComposesTheStream :=
  fun s k hk => ⟨composedFrom_drawn s hk, afterDraw_eq k s⟩

/-- What a draw of `k` bits composes is below `2^k`. -/
theorem ComposedFrom.toNat_lt {s : State} {k : Nat} {y : Word64} (h : ComposedFrom s k y) : y.toNat < 2 ^ k := by
  refine Nat.lt_pow_two_of_testBit _ fun i hi => ?_
  rw [BitVec.testBit_toNat, h i, decide_eq_false (Nat.not_lt.mpr hi), Bool.false_and]

/-! ### The sampling commands -/

/-- A command that samples `k` bits after the check of `seeded` answers what it makes of the composed value. -/
theorem drawsAndAnswers_of_sampling {i : Instr} {k : Nat} {f : Word64 → Word64} {R : Word64 → Word64 → Prop}
    (hk : k ≤ 64) (hexec : ∀ s, exec i s = .next (whenSeeded (sampleAndRespond k f) s))
    (hR : ∀ y, y.toNat < 2 ^ k → R y (f y)) : DrawsAndAnswers i k R := by
  intro s hs
  have hy := composedFrom_drawn s hk
  refine ⟨drawn k s, f (drawn k s), hy, hR _ hy.toNat_lt, ?_⟩
  rw [hexec, whenSeeded_of_seeded hs, sampleAndRespond, afterDraw_eq]
  rfl

/-- A command that samples `k` bits and answers them as they are. -/
theorem drawsAndAnswers_of_plain_sampling {i : Instr} {k : Nat} (hk : k ≤ 64)
    (hexec : ∀ s, exec i s = .next (whenSeeded (sampleAndRespond k id) s)) :
    DrawsAndAnswers i k fun y r => r = y :=
  drawsAndAnswers_of_sampling hk hexec fun _ _ => rfl

/-! ### `SUINT` -/

/-- The word of `SUINT n` is `0x2000 + n` (R45, R47). -/
theorem commandWord_suint {n : Nat} (hn : n < 256) :
    commandWord 0x20#8 (BitVec.ofNat 8 n) = BitVec.ofNat 16 (0x2000 + n) := by
  apply BitVec.eq_of_toNat_eq
  rw [commandWord, BitVec.toNat_append, BitVec.toNat_ofNat, BitVec.toNat_ofNat, BitVec.toNat_ofNat,
    Nat.mod_eq_of_lt (show n < 2 ^ 8 from hn), ← Nat.shiftLeft_add_eq_or_of_lt hn,
    Nat.mod_eq_of_lt (show 0x2000 + n < 2 ^ 16 by omega)]
  rfl

theorem decode_suint_word {n : Nat} (hn : n < 256) (opa opb : Word64) :
    decode ⟨BitVec.ofNat 16 (0x2000 + n), opa, opb⟩ = .ok (.suint n) := by
  rw [← commandWord_suint hn]
  refine (decode_suint (t := ⟨commandWord _ _, opa, opb⟩) (opcodeField_commandWord _ _)).trans ?_
  rw [imm8Field_commandWord, BitVec.toNat_ofNat, Nat.mod_eq_of_lt (show n < 2 ^ 8 from hn)]

/-- A count within the result's width passes the operand check (R65). -/
theorem exec_suint_of_le {n : Nat} (hn : n ≤ 64) (s : State) :
    exec (.suint n) s = .next (whenSeeded (sampleAndRespond n id) s) := by
  have hcheck : bitCountExceeds n = false := decide_eq_false (Nat.not_lt.mpr hn)
  simp [exec, execSuint, hcheck]

/-- A count above the result's width is rejected before the first sample (R65, R102). -/
theorem exec_suint_of_gt {n : Nat} (hn : 64 < n) (s : State) :
    exec (.suint n) s = .next (whenSeeded (raise .bitWidthExceeded) s) := by
  have hcheck : bitCountExceeds n = true := decide_eq_true hn
  simp [exec, execSuint, hcheck]

/-- Settles O33: the operand check parts the counts at 64, and the draw of no bits is the machine as it is. -/
theorem suintComposesOrRejects : Obligations.SuintComposesOrRejects := by
  refine ⟨fun n opa opb hn => decode_suint_word hn opa opb, fun n => rejectsUnseeded_of_not_isSeeding rfl,
    fun n hn s hs => ?_, fun n hn => drawsAndAnswers_of_plain_sampling hn (exec_suint_of_le hn), fun s hs => ?_⟩
  · rw [exec_suint_of_gt hn, whenSeeded_of_seeded hs]
    rfl
  · rw [exec_suint_of_le (Nat.zero_le 64), whenSeeded_of_seeded hs]
    rfl

/-! ### The fixed widths -/

/-- What a bare command that samples `k` bits and answers them as they are has in common with `SUINT k`
(R66 to R68). -/
theorem plain_sampling_spec {op : Byte} {i : Instr} {k : Nat} (hop : op ≠ 0x20#8)
    (hbare : ∀ opa opb, bareCommand op opa opb = some i) (hi : isSeeding i = false) (hk : k ≤ 64)
    (hexec : ∀ s, exec i s = .next (whenSeeded (sampleAndRespond k id) s)) :
    EncodedBy (commandWord op 0#8) (fun _ _ => i) ∧ RejectsUnseeded i ∧
      DrawsAndAnswers i k (fun y r => r = y) ∧ ∀ s, exec i s = exec (.suint k) s :=
  ⟨encodedBy_of_bareCommand hop hbare, rejectsUnseeded_of_not_isSeeding hi,
    drawsAndAnswers_of_plain_sampling hk hexec, fun s => (hexec s).trans (exec_suint_of_le hk s).symm⟩

theorem exec_su8 (s : State) : exec .su8 s = .next (whenSeeded (sampleAndRespond 8 id) s) := rfl
theorem exec_su32 (s : State) : exec .su32 s = .next (whenSeeded (sampleAndRespond 32 id) s) := rfl
theorem exec_su64 (s : State) : exec .su64 s = .next (whenSeeded (sampleAndRespond 64 id) s) := rfl
theorem exec_si32 (s : State) : exec .si32 s = .next (whenSeeded (sampleAndRespond 32 signedResult32) s) := rfl
theorem exec_si64 (s : State) : exec .si64 s = .next (whenSeeded (sampleAndRespond 64 id) s) := rfl

/-- Settles O34: each command is a plain sampling, as `SUINT` with its count is. -/
theorem fixedWidthUnsignedDraws : Obligations.FixedWidthUnsignedDraws :=
  ⟨plain_sampling_spec (op := 0x21#8) (by decide) (fun _ _ => rfl) rfl (by decide) exec_su8,
    plain_sampling_spec (op := 0x22#8) (by decide) (fun _ _ => rfl) rfl (by decide) exec_su32,
    plain_sampling_spec (op := 0x23#8) (by decide) (fun _ _ => rfl) rfl (by decide) exec_su64⟩

/-! ### The signed view -/

/-- Sign extension repeats bit 31 above the 32 bits (R69). -/
theorem getLsbD_signedResult32 (y : Word64) {i : Nat} (hi : i < 64) :
    (signedResult32 y).getLsbD i = y.getLsbD (min i 31) := by
  rw [signedResult32, BitVec.getLsbD_signExtend]
  obtain hlow | hhigh := Nat.lt_or_ge i 32
  · simp [hi, hlow, show min i 31 = i by omega]
  · simp [hi, show ¬ i < 32 by omega, show min i 31 = 31 by omega, BitVec.msb_eq_getLsbD_last]

/-- The signed 64-bit reading is the two's-complement reading of the 32 bits (R69). -/
theorem toInt_signedResult32 {y : Word64} (hy : y.toNat < 2 ^ 32) :
    (signedResult32 y).toInt = if y.toNat < 2 ^ 31 then (y.toNat : Int) else (y.toNat : Int) - 2 ^ 32 := by
  rw [signedResult32, BitVec.toInt_signExtend_of_le (by decide), BitVec.toInt_eq_toNat_cond, BitVec.toNat_setWidth,
    Nat.mod_eq_of_lt hy]
  split <;> split <;> omega

/-- Settles O35: the draw is below `2^32`, so its sign extension is its two's-complement reading. -/
theorem si32SignExtendsItsDraw : Obligations.Si32SignExtendsItsDraw :=
  ⟨encodedBy_of_bareCommand (op := 0x24#8) (by decide) fun _ _ => rfl, rejectsUnseeded_of_not_isSeeding rfl,
    drawsAndAnswers_of_sampling (by decide) exec_si32 fun y hy =>
      ⟨fun _ hi => getLsbD_signedResult32 y hi, toInt_signedResult32 hy⟩⟩

/-- Settles O36: `SI64` and `SU64` are the same plain sampling. -/
theorem si64IsSu64ReadSigned : Obligations.Si64IsSu64ReadSigned := by
  obtain ⟨hencoded, hunseeded, hdraw, -⟩ :=
    plain_sampling_spec (op := 0x25#8) (by decide) (fun _ _ => rfl) rfl (by decide) exec_si64
  exact ⟨hencoded, hunseeded, hdraw, fun s => (exec_si64 s).trans (exec_su64 s).symm⟩

end Sys2Proof
end

section
/-! PROOFS. The rounding of spec/42_float_composer.md R75: the significand is the nearest integer to the scaled
quotient, and so the rounded quotient is the nearest float. -/

namespace Sys2Proof

open Machine

/-! ### The nearest integer -/

/-- The rounded quotient is at most half a divisor away, and even where it is exactly that far. -/
theorem roundToEven_cases (num : Nat) {den : Nat} (hd : 0 < den) :
    2 * num ≤ 2 * (den * roundToEven num den) + den ∧ 2 * (den * roundToEven num den) ≤ 2 * num + den ∧
    (2 * num = 2 * (den * roundToEven num den) + den ∨ 2 * (den * roundToEven num den) = 2 * num + den →
      roundToEven num den % 2 = 0) := by
  have hdiv := Nat.div_add_mod num den
  have hrem := Nat.mod_lt num hd
  have hsucc : den * (num / den + 1) = den * (num / den) + den := Nat.mul_succ ..
  simp only [roundToEven]
  split
  · omega
  · split
    · split <;> omega
    · omega

/-- The rounded quotient is within one half of the quotient, and even where it is exactly one half away. -/
theorem abs_sub_roundToEven_le (num : Nat) {den : Nat} (hd : 0 < den) :
    |(num / den : ℚ) - roundToEven num den| ≤ 1 / 2 ∧
    (|(num / den : ℚ) - roundToEven num den| = 1 / 2 → roundToEven num den % 2 = 0) := by
  obtain ⟨hup, hdown, htie⟩ := roundToEven_cases num hd
  generalize roundToEven num den = r at *
  have hd' : (0 : ℚ) < den := by exact_mod_cast hd
  have hscaled : 2 * (num : ℚ) - 2 * (den * r) = 2 * den * (num / den - r) := by field_simp
  qify at hup hdown
  refine ⟨abs_le.mpr ⟨?_, ?_⟩, fun h => htie ?_⟩
  · nlinarith
  · nlinarith
  · qify
    obtain h | h := (abs_eq (by norm_num)).mp h <;> rw [h] at hscaled
    · exact .inl (by linarith)
    · exact .inr (by linarith)

/-- No integer is nearer to the quotient than the rounded one, and one equally near leaves it even. -/
theorem roundToEven_nearest (num : Nat) {den : Nat} (hd : 0 < den) (k : Nat) :
    |(num / den : ℚ) - roundToEven num den| ≤ |(num / den : ℚ) - k| ∧
    (|(num / den : ℚ) - roundToEven num den| = |(num / den : ℚ) - k| →
      roundToEven num den = k ∨ roundToEven num den % 2 = 0) := by
  obtain ⟨hhalf, heven⟩ := abs_sub_roundToEven_le num hd
  obtain heq | hne := eq_or_ne (roundToEven num den) k
  · rw [heq]
    exact ⟨le_rfl, fun _ => .inl rfl⟩
  have hapart : (1 : ℚ) ≤ |(roundToEven num den : ℚ) - k| := by
    exact_mod_cast Int.one_le_abs (sub_ne_zero.mpr (Int.ofNat_inj.not.mpr hne))
  have htri := abs_sub_le (roundToEven num den : ℚ) (num / den) k
  rw [abs_sub_comm (roundToEven num den : ℚ) (num / den)] at htri
  exact ⟨by linarith, fun h => .inr (heven (by linarith))⟩

/-- Rounding keeps the bounds that are integers. -/
theorem roundToEven_bounds {num den lo hi : Nat} (hd : 0 < den) (hlo : den * lo ≤ num) (hhi : num < den * hi) :
    lo ≤ roundToEven num den ∧ roundToEven num den ≤ hi := by
  obtain ⟨hup, hdown, -⟩ := roundToEven_cases num hd
  constructor
  all_goals
    refine Nat.le_of_lt_succ (Nat.lt_of_mul_lt_mul_left (a := den) ?_)
    rw [Nat.mul_succ]
    omega

/-! ### The scaled quotient -/

theorem scaleQuotient_den_pos (num : Nat) {den : Nat} (hd : 0 < den) (e : Int) : 0 < (scaleQuotient num den e).2 := by
  cases e with
  | ofNat k => exact Nat.mul_pos hd (Nat.two_pow_pos k)
  | negSucc k => exact hd

/-- The scaled quotient is `num / den * 2^(-e)`. -/
theorem scaleQuotient_value (num den : Nat) (e : Int) :
    ((scaleQuotient num den e).1 / (scaleQuotient num den e).2 : ℚ) = num / den / (2 : ℚ) ^ e := by
  cases e with
  | ofNat k => simp [scaleQuotient, div_div]
  | negSucc k => simp [scaleQuotient, zpow_negSucc, div_mul_eq_mul_div]

/-- The bits of a positive number. -/
theorem bitLength_bounds {x : Nat} (hx : x ≠ 0) :
    (2 : ℚ) ^ ((bitLength x : Int) - 1) ≤ x ∧ (x : ℚ) < (2 : ℚ) ^ (bitLength x : Int) := by
  have hlen : (bitLength x : Int) = x.log2 + 1 := by simp [bitLength, hx]
  rw [hlen, add_sub_cancel_right]
  exact ⟨by exact_mod_cast Nat.log2_self_le hx, by exact_mod_cast Nat.lt_log2_self⟩

/-- A quotient lies between the powers of two of the difference of the two bit lengths. -/
theorem quotient_bounds {num den : Nat} (hn : num ≠ 0) (hd : den ≠ 0) :
    (2 : ℚ) ^ ((bitLength num : Int) - bitLength den - 1) ≤ num / den ∧
    (num / den : ℚ) < (2 : ℚ) ^ ((bitLength num : Int) - bitLength den + 1) := by
  obtain ⟨hnlo, hnhi⟩ := bitLength_bounds hn
  obtain ⟨hdlo, hdhi⟩ := bitLength_bounds hd
  have hd' : (0 : ℚ) < den := by exact_mod_cast Nat.pos_of_ne_zero hd
  constructor
  · rw [sub_right_comm, zpow_sub₀ two_ne_zero]
    exact div_le_div₀ (by positivity) hnlo hd' hdhi.le
  · rw [sub_add, zpow_sub₀ two_ne_zero]
    exact div_lt_div₀ hnhi hdlo (by positivity) (by positivity)

/-- The chosen exponent leaves exactly `p` bits before the point. -/
theorem quotientExponent_bounds (p : Nat) {num den : Nat} (hn : num ≠ 0) (hd : den ≠ 0) :
    (2 : ℚ) ^ ((p : Int) - 1) ≤ num / den / (2 : ℚ) ^ quotientExponent p num den ∧
    num / den / (2 : ℚ) ^ quotientExponent p num den < (2 : ℚ) ^ p := by
  obtain ⟨hlo, hhi⟩ := quotient_bounds hn hd
  obtain ⟨e, he⟩ : ∃ e : Int, e = bitLength num - bitLength den - p := ⟨_, rfl⟩
  have hpos := scaleQuotient_den_pos num (Nat.pos_of_ne_zero hd) e
  have hvalue := scaleQuotient_value num den e
  have hpow : (0 : ℚ) < 2 ^ e := by positivity
  rw [show (bitLength num : Int) - bitLength den - 1 = p - 1 + e by omega, zpow_add₀ two_ne_zero,
    ← le_div_iff₀ hpow] at hlo
  rw [show (bitLength num : Int) - bitLength den + 1 = p + 1 + e by omega, zpow_add₀ two_ne_zero,
    ← div_lt_iff₀ hpow] at hhi
  have hfits : (scaleQuotient num den e).1 / (scaleQuotient num den e).2 < 2 ^ p ↔
      (num / den / (2 : ℚ) ^ e) < 2 ^ p := by
    rw [Nat.div_lt_iff_lt_mul hpos, ← hvalue, div_lt_iff₀ (by exact_mod_cast hpos)]
    exact_mod_cast Iff.rfl
  simp only [quotientExponent, ← he, hfits]
  split
  case isTrue h => exact ⟨hlo, h⟩
  case isFalse h =>
    rw [not_lt] at h
    rw [zpow_add_one₀ two_ne_zero, ← div_div, zpow_sub_one₀ two_ne_zero, ← div_eq_mul_inv]
    rw [zpow_add_one₀ two_ne_zero, zpow_natCast] at hhi
    rw [zpow_natCast]
    exact ⟨by gcongr, (div_lt_iff₀ two_pos).mpr hhi⟩

/-! ### The nearest float -/

/-- The significand has its leading bit: a non-zero number of precision `p`. -/
def IsNormal (p : Nat) (f : BinFloat) : Prop := 2 ^ (p - 1) ≤ f.mant ∧ f.mant < 2 ^ p

theorem binFloatValue_nonneg (f : BinFloat) : 0 ≤ binFloatValue f := by
  rw [binFloatValue]; positivity

theorem binFloatValue_eq_zero {f : BinFloat} : binFloatValue f = 0 ↔ f.mant = 0 := by
  rw [binFloatValue, mul_eq_zero_iff_right (by positivity), Nat.cast_eq_zero]

theorem binFloatValue_renormalise {p : Nat} (hp : 0 < p) (f : BinFloat) :
    binFloatValue (renormalise p f) = binFloatValue f := by
  rw [renormalise]
  split
  case isFalse => rfl
  case isTrue h =>
    rw [binFloatValue, binFloatValue, h, zpow_add_one₀ two_ne_zero, ← Nat.sub_add_cancel hp, pow_succ]
    push_cast
    ring

theorem isNormal_renormalise {p : Nat} {f : BinFloat} (hp : 0 < p) (hlo : 2 ^ (p - 1) ≤ f.mant)
    (hhi : f.mant ≤ 2 ^ p) : IsNormal p (renormalise p f) := by
  rw [renormalise]
  split
  case isFalse h => exact ⟨hlo, lt_of_le_of_ne hhi h⟩
  case isTrue => exact ⟨le_rfl, Nat.pow_lt_pow_right (by omega) (by omega)⟩

theorem even_mant_renormalise {p : Nat} {f : BinFloat} (hp : 2 ≤ p) (h : f.mant % 2 = 0) :
    (renormalise p f).mant % 2 = 0 := by
  rw [renormalise]
  split
  case isFalse => exact h
  case isTrue => exact Nat.mod_eq_zero_of_dvd (dvd_pow_self 2 (by omega))

/-- A number of precision `p` with an exponent below `e` lies below every normal number with exponent `e`. -/
theorem binFloatValue_lt_of_exp_lt {p m : Nat} {e e' : Int} (hp : 0 < p) (hm : m < 2 ^ p) (h : e' < e) :
    binFloatValue ⟨m, e'⟩ < 2 ^ (p - 1) * (2 : ℚ) ^ e := by
  have hmant : (m : ℚ) < 2 ^ p := by exact_mod_cast hm
  calc binFloatValue ⟨m, e'⟩ < 2 ^ p * (2 : ℚ) ^ e' := by rw [binFloatValue]; gcongr
    _ ≤ 2 ^ p * (2 : ℚ) ^ (e - 1) := by gcongr <;> norm_num; omega
    _ = 2 ^ (p - 1) * (2 : ℚ) ^ e := by
      rw [← Nat.sub_add_cancel hp, pow_succ, zpow_sub_one₀ two_ne_zero, Nat.add_sub_cancel]
      ring

/-- A number of precision `p` is a multiple of `2^e`, or lies below every normal number with exponent `e`. -/
theorem binFloatValue_multiple_or_lt {p m : Nat} (hp : 0 < p) (hm : m < 2 ^ p) (e e' : Int) :
    (∃ k : Nat, binFloatValue ⟨m, e'⟩ = k * (2 : ℚ) ^ e) ∨
      binFloatValue ⟨m, e'⟩ < 2 ^ (p - 1) * (2 : ℚ) ^ e := by
  obtain h | h := le_or_gt e e'
  · obtain ⟨d, rfl⟩ := Int.exists_add_of_le h
    refine .inl ⟨m * 2 ^ d, ?_⟩
    simp only [binFloatValue, zpow_add₀ (two_ne_zero' ℚ), zpow_natCast]
    push_cast
    ring
  · exact .inr (binFloatValue_lt_of_exp_lt hp hm h)

/-- The significand before renormalisation is the scaled quotient rounded. -/
theorem roundQuotient_eq (p : Nat) {num den : Nat} (hn : num ≠ 0) :
    roundQuotient p num den = renormalise p
      ⟨roundToEven (scaleQuotient num den (quotientExponent p num den)).1
        (scaleQuotient num den (quotientExponent p num den)).2, quotientExponent p num den⟩ :=
  if_neg hn

/-- If no integer is nearer to `X` than the significand `r`, no float is nearer to `X * 2^e` than `r * 2^e`: the floats
that are no multiples of `2^e` lie below the least normal number with exponent `e`, and `X * 2^e` does not. -/
theorem isNearestEven_renormalise {p r : Nat} {e : Int} {X : ℚ} (hp : 2 ≤ p) (hlo : 2 ^ (p - 1) ≤ r)
    (hhi : r ≤ 2 ^ p) (hX : 2 ^ (p - 1) ≤ X)
    (hnear : ∀ k : Nat, |X - r| ≤ |X - k| ∧ (|X - r| = |X - k| → r = k ∨ r % 2 = 0)) :
    IsNearestEven p (X * (2 : ℚ) ^ e) (renormalise p ⟨r, e⟩) := by
  have hpow : (0 : ℚ) < 2 ^ e := by positivity
  have hscale (y : ℚ) : |X * 2 ^ e - y * 2 ^ e| = |X - y| * 2 ^ e := by
    rw [← sub_mul, abs_mul, abs_of_pos hpow]
  refine ⟨.inr (isNormal_renormalise (by omega) hlo hhi), fun m e' hm => ?_⟩
  rw [binFloatValue_renormalise (by omega), show binFloatValue ⟨r, e⟩ = r * (2 : ℚ) ^ e from rfl, hscale]
  obtain ⟨k, hk⟩ | hsmall := binFloatValue_multiple_or_lt (by omega) hm e e'
  · obtain ⟨hle, htie⟩ := hnear k
    rw [hk, hscale]
    refine ⟨by gcongr, fun h => (htie (mul_right_cancel₀ hpow.ne' h)).imp (fun h => by rw [h]) fun h => ?_⟩
    exact even_mant_renormalise hp h
  · have hlt : |X - r| * 2 ^ e < |X * 2 ^ e - binFloatValue ⟨m, e'⟩| := by
      have hlow := (hnear (2 ^ (p - 1))).1
      push_cast at hlow
      rw [abs_of_nonneg (sub_nonneg.mpr hX)] at hlow
      calc |X - r| * 2 ^ e ≤ (X - 2 ^ (p - 1)) * 2 ^ e := by gcongr
        _ < X * 2 ^ e - binFloatValue ⟨m, e'⟩ := by linarith
        _ ≤ _ := le_abs_self _
    exact ⟨hlt.le, fun h => absurd h hlt.ne⟩

/-- The significand that rounding the scaled quotient gives has `p` bits, or is `2^p`. -/
theorem rounded_significand_bounds {p num den : Nat} (hp : 0 < p) (hn : num ≠ 0) (hd : den ≠ 0) :
    let q := scaleQuotient num den (quotientExponent p num den)
    2 ^ (p - 1) ≤ roundToEven q.1 q.2 ∧ roundToEven q.1 q.2 ≤ 2 ^ p := by
  intro q
  have hpos : 0 < q.2 := scaleQuotient_den_pos num (Nat.pos_of_ne_zero hd) _
  have hpos' : (0 : ℚ) < q.2 := by exact_mod_cast hpos
  obtain ⟨hlo, hhi⟩ := quotientExponent_bounds p hn hd
  rw [← scaleQuotient_value] at hlo hhi
  apply roundToEven_bounds hpos
  · rw [← Nat.cast_pred hp, zpow_natCast, le_div_iff₀' hpos'] at hlo
    exact_mod_cast hlo
  · rw [div_lt_iff₀' hpos'] at hhi
    exact_mod_cast hhi

/-- `RN` rounds to nearest, ties to even (R75). -/
theorem roundQuotient_isNearestEven {p : Nat} (num : Nat) {den : Nat} (hp : 2 ≤ p) (hd : den ≠ 0) :
    IsNearestEven p (num / den) (roundQuotient p num den) := by
  obtain rfl | hn := eq_or_ne num 0
  · refine ⟨.inl rfl, fun m e hm => ⟨?_, fun _ => .inr rfl⟩⟩
    simpa [roundQuotient, binFloatValue] using binFloatValue_nonneg ⟨m, e⟩
  obtain ⟨hlo, hhi⟩ := rounded_significand_bounds (Nat.zero_lt_of_lt hp) hn hd
  have hX := (quotientExponent_bounds p hn hd).1
  rw [← Nat.cast_pred (Nat.zero_lt_of_lt hp), zpow_natCast, ← scaleQuotient_value] at hX
  have hx : (num / den : ℚ) = num / den / 2 ^ quotientExponent p num den * 2 ^ quotientExponent p num den :=
    (div_mul_cancel₀ _ (by positivity)).symm
  rw [roundQuotient_eq p hn, hx, ← scaleQuotient_value]
  exact isNearestEven_renormalise hp hlo hhi hX
    (roundToEven_nearest _ (scaleQuotient_den_pos num (Nat.pos_of_ne_zero hd) _))

theorem convert_isNearestEven {fmt : FloatFormat} (hp : 2 ≤ fmt.prec) (y : Nat) :
    IsNearestEven fmt.prec y (convert fmt y) := by
  simpa [convert] using roundQuotient_isNearestEven y hp one_ne_zero

/-- A float division is the quotient rounded (R75). -/
theorem divide_isNearestEven {fmt : FloatFormat} (hp : 2 ≤ fmt.prec) (x : BinFloat) {y : BinFloat}
    (hy : y.mant ≠ 0) : IsNearestEven fmt.prec (binFloatValue x / binFloatValue y) (divide fmt x y) := by
  have hvalue : binFloatValue x / binFloatValue y = x.mant / y.mant / (2 : ℚ) ^ (y.exp - x.exp) := by
    rw [binFloatValue, binFloatValue, zpow_sub₀ two_ne_zero]
    field_simp
  rw [hvalue, ← scaleQuotient_value]
  exact roundQuotient_isNearestEven _ hp (scaleQuotient_den_pos _ (Nat.pos_of_ne_zero hy) _).ne'

/-! ### What a rounding to nearest keeps -/

theorem IsNearestEven.mant_lt {p : Nat} {x : ℚ} {f : BinFloat} (h : IsNearestEven p x f) : f.mant < 2 ^ p := by
  obtain ⟨hzero | hnormal, -⟩ := h
  · rw [hzero]
    exact Nat.two_pow_pos p
  · exact hnormal.2

/-- A number of the precision is rounded to itself. -/
theorem IsNearestEven.value_of_exact {p : Nat} {f g : BinFloat} (h : IsNearestEven p (binFloatValue g) f)
    (hg : g.mant < 2 ^ p) : binFloatValue f = binFloatValue g := by
  have hle := (h.2 g.mant g.exp hg).1
  rw [sub_self, abs_zero] at hle
  exact (sub_eq_zero.mp (abs_nonpos_iff.mp hle)).symm

/-- Rounding keeps the order. -/
theorem IsNearestEven.value_le {p : Nat} {x y : ℚ} {f g : BinFloat} (hf : IsNearestEven p x f)
    (hg : IsNearestEven p y g) (hxy : x < y) : binFloatValue f ≤ binFloatValue g := by
  have hxf := (hf.2 g.mant g.exp hg.mant_lt).1
  have hyg := (hg.2 f.mant f.exp hf.mant_lt).1
  by_contra! hlt
  have hx := sq_le_sq.mpr hxf
  have hy := sq_le_sq.mpr hyg
  nlinarith [mul_pos (sub_pos.mpr hlt) (sub_pos.mpr hxy)]

end Sys2Proof
end

section
/-! PROOFS. The IEEE 754 bit patterns of spec/42_float_composer.md R75: a pattern has the value of the number it was
made of, and patterns are ordered as their numbers are. -/

namespace Sys2Proof

open Machine

/-- Numbers with `p` bits are ordered by exponent first and significand second. -/
theorem IsNormal.lex_of_value_le {p : Nat} {f g : BinFloat} (hp : 0 < p) (hf : IsNormal p f) (hg : IsNormal p g)
    (h : binFloatValue f ≤ binFloatValue g) : f.exp < g.exp ∨ (f.exp = g.exp ∧ f.mant ≤ g.mant) := by
  obtain hlt | heq | hgt := lt_trichotomy f.exp g.exp
  · exact .inl hlt
  · rw [binFloatValue, binFloatValue, heq, mul_le_mul_iff_left₀ (by positivity)] at h
    exact .inr ⟨heq, by exact_mod_cast h⟩
  · have hlead : (2 : ℚ) ^ (p - 1) ≤ f.mant := by exact_mod_cast hf.1
    have hbelow : binFloatValue g < binFloatValue f :=
      calc binFloatValue g < 2 ^ (p - 1) * (2 : ℚ) ^ f.exp := binFloatValue_lt_of_exp_lt hp hg.2 hgt
        _ ≤ binFloatValue f := by rw [binFloatValue]; gcongr
    exact absurd h hbelow.not_ge

/-- A number the format represents: zero, or a significand of `prec` bits and a positive biased exponent. -/
def Representable (fmt : FloatFormat) (f : BinFloat) : Prop :=
  f.mant = 0 ∨ (IsNormal fmt.prec f ∧ 0 < f.exp + fmt.prec - 1 + fmt.bias)

theorem floatBits_of_mant_zero (fmt : FloatFormat) {f : BinFloat} (h : f.mant = 0) : floatBits fmt f = 0 := if_pos h

/-- A normal number's bits are its biased exponent in front of the significand without its leading bit. -/
theorem floatBits_of_isNormal {fmt : FloatFormat} {f : BinFloat} (h : IsNormal fmt.prec f) :
    floatBits fmt f = (f.exp + fmt.prec - 1 + fmt.bias).toNat * 2 ^ (fmt.prec - 1) + (f.mant - 2 ^ (fmt.prec - 1)) :=
  if_neg (Nat.ne_zero_of_lt (Nat.lt_of_lt_of_le (Nat.two_pow_pos _) h.1))

/-- The fraction field is too narrow for the leading bit. -/
theorem IsNormal.fraction_lt {p : Nat} {f : BinFloat} (hp : 0 < p) (h : IsNormal p f) :
    f.mant - 2 ^ (p - 1) < 2 ^ (p - 1) := by
  have hlead := h.1
  have htop := h.2
  have hdouble : 2 ^ p = 2 ^ (p - 1) * 2 := by rw [← pow_succ, Nat.sub_add_cancel hp]
  omega

/-- The bit pattern of a represented number has the number's value. -/
theorem floatValue_floatBits {fmt : FloatFormat} {f : BinFloat} (hp : 0 < fmt.prec) (hf : Representable fmt f) :
    floatValue fmt (floatBits fmt f) = binFloatValue f := by
  obtain hzero | ⟨hnormal, hexp⟩ := hf
  · simp [floatBits_of_mant_zero fmt hzero, floatValue, binFloatValue, hzero]
  · have hfrac := hnormal.fraction_lt hp
    have hpow := Nat.two_pow_pos (fmt.prec - 1)
    obtain ⟨E, hE⟩ := Int.eq_ofNat_of_zero_le hexp.le
    have hEpos : 0 < E := by omega
    have hne : 2 ^ (fmt.prec - 1) * E + (f.mant - 2 ^ (fmt.prec - 1)) ≠ 0 := by positivity
    obtain ⟨hdiv, hmod⟩ := (Nat.div_mod_unique hpow).mpr ⟨Nat.add_comm _ (2 ^ (fmt.prec - 1) * E), hfrac⟩
    rw [floatBits_of_isNormal hnormal, hE, Int.toNat_natCast, Nat.mul_comm E, floatValue, if_neg hne, hmod, hdiv,
      Nat.add_sub_cancel' hnormal.1, binFloatValue, show (E - fmt.bias - (fmt.prec - 1) : Int) = f.exp by omega]

/-- Bit patterns are ordered as their numbers are. -/
theorem floatBits_le_floatBits {fmt : FloatFormat} {f g : BinFloat} (hp : 0 < fmt.prec) (hf : Representable fmt f)
    (hg : Representable fmt g) (h : binFloatValue f ≤ binFloatValue g) : floatBits fmt f ≤ floatBits fmt g := by
  obtain hfzero | ⟨hfn, hfe⟩ := hf
  · rw [floatBits_of_mant_zero fmt hfzero]
    exact Nat.zero_le _
  obtain hgzero | ⟨hgn, -⟩ := hg
  · rw [binFloatValue_eq_zero.mpr hgzero] at h
    rw [floatBits_of_mant_zero fmt (binFloatValue_eq_zero.mp (h.antisymm (binFloatValue_nonneg f)))]
    exact Nat.zero_le _
  rw [floatBits_of_isNormal hfn, floatBits_of_isNormal hgn]
  obtain hlt | ⟨heq, hle⟩ := hfn.lex_of_value_le hp hgn h
  · have hfrac := hfn.fraction_lt hp
    have hstep := Nat.mul_le_mul_right (2 ^ (fmt.prec - 1)) (show (f.exp + fmt.prec - 1 + fmt.bias).toNat + 1 ≤
      (g.exp + fmt.prec - 1 + fmt.bias).toNat by omega)
    rw [Nat.add_one_mul] at hstep
    omega
  · rw [heq]
    omega

end Sys2Proof
end

section
/-! PROOFS. The float composer (spec/42_float_composer.md R75 to R77): the divisor rounds to a power of two, so the
answered bits are monotone in the draw and the corner cases bound them. -/

namespace Sys2Proof

open Machine

/-! ### The quotient by `2^W - 1` -/

/-- The width's divisor is rounded up to `2^W`, and `2^-W` is a number of the format (R78). -/
structure DividesByPow (fmt : FloatFormat) (w : Nat) : Prop where
  two_le_prec : 2 ≤ fmt.prec
  width_lt_bias : w < fmt.bias
  divisor : binFloatValue (convert fmt (2 ^ w - 1)) = 2 ^ w

theorem dividesByPow_binary32 : DividesByPow binary32 32 where
  two_le_prec := by decide
  width_lt_bias := by decide
  divisor := by
    rw [show convert binary32 (2 ^ 32 - 1) = ⟨2 ^ 23, 9⟩ by decide]
    norm_num [binFloatValue]

theorem dividesByPow_binary64 : DividesByPow binary64 64 where
  two_le_prec := by decide
  width_lt_bias := by decide
  divisor := by
    rw [show convert binary64 (2 ^ 64 - 1) = ⟨2 ^ 52, 12⟩ by decide]
    norm_num [binFloatValue]

/-- The bit pattern answered for a draw `y` of `w` bits. -/
def unitBits (fmt : FloatFormat) (w y : Nat) : Nat := floatBits fmt (unitFloat fmt w y)

section
variable {fmt : FloatFormat} {w : Nat} (h : DividesByPow fmt w)
include h

theorem DividesByPow.prec_pos : 0 < fmt.prec := Nat.zero_lt_of_lt h.two_le_prec

/-- The result is the quotient of the two conversions, rounded. -/
theorem DividesByPow.unitFloat_isNearestEven (y : Nat) :
    IsNearestEven fmt.prec (binFloatValue (convert fmt y) / binFloatValue (convert fmt (2 ^ w - 1)))
      (unitFloat fmt w y) := by
  refine divide_isNearestEven h.two_le_prec _ fun hzero => ?_
  exact pow_ne_zero w two_ne_zero (h.divisor.symm.trans (binFloatValue_eq_zero.mpr hzero))

/-- Dividing by a power of two is exact (R78). -/
theorem DividesByPow.unitFloat_value (y : Nat) :
    binFloatValue (unitFloat fmt w y) = binFloatValue (convert fmt y) / 2 ^ w := by
  have hnear := h.unitFloat_isNearestEven y
  have hexact : binFloatValue (convert fmt y) / 2 ^ w =
      binFloatValue ⟨(convert fmt y).mant, (convert fmt y).exp - w⟩ := by
    rw [binFloatValue, binFloatValue, zpow_sub₀ two_ne_zero, zpow_natCast, mul_div_assoc]
  rw [h.divisor, hexact] at hnear
  rw [hexact]
  exact hnear.value_of_exact (convert_isNearestEven h.two_le_prec y).mant_lt

theorem DividesByPow.unitFloat_value_mono {y z : Nat} (hyz : y ≤ z) :
    binFloatValue (unitFloat fmt w y) ≤ binFloatValue (unitFloat fmt w z) := by
  obtain rfl | hlt := hyz.eq_or_lt
  · exact le_rfl
  rw [h.unitFloat_value, h.unitFloat_value]
  gcongr
  exact (convert_isNearestEven h.two_le_prec y).value_le (convert_isNearestEven h.two_le_prec z) (by exact_mod_cast hlt)

theorem DividesByPow.unitFloat_value_one : binFloatValue (unitFloat fmt w 1) = 1 / 2 ^ w := by
  have hone : ((1 : Nat) : ℚ) = binFloatValue ⟨1, 0⟩ := by simp [binFloatValue]
  have hnear := convert_isNearestEven h.two_le_prec 1
  rw [hone] at hnear
  rw [h.unitFloat_value, hnear.value_of_exact (Nat.one_lt_two_pow (Nat.ne_of_gt h.prec_pos)), ← hone, Nat.cast_one]

theorem DividesByPow.unitFloat_mant_zero : (unitFloat fmt w 0).mant = 0 := by
  rw [← binFloatValue_eq_zero, h.unitFloat_value]
  simp [convert, roundQuotient, binFloatValue]

/-- Every result is zero or a normal number of the format (R79). -/
theorem DividesByPow.unitFloat_representable (y : Nat) : Representable fmt (unitFloat fmt w y) := by
  obtain rfl | hy := Nat.eq_zero_or_pos y
  · exact .inl h.unitFloat_mant_zero
  obtain hzero | hnormal := (h.unitFloat_isNearestEven y).1
  · exact .inl hzero
  refine .inr ⟨hnormal, ?_⟩
  by_contra! hexp
  have hwidth := h.width_lt_bias
  have hprec := h.prec_pos
  have hlow : (1 : ℚ) / 2 ^ w ≤ binFloatValue (unitFloat fmt w y) :=
    h.unitFloat_value_one ▸ h.unitFloat_value_mono hy
  generalize unitFloat fmt w y = f at *
  have hsmall : binFloatValue f < 2 ^ (fmt.prec - 1) * (2 : ℚ) ^ (-w - (fmt.prec - 1 : Nat) : Int) :=
    binFloatValue_lt_of_exp_lt h.prec_pos hnormal.2 (by omega)
  rw [zpow_sub₀ two_ne_zero, zpow_natCast, mul_div_cancel₀ _ (by positivity), zpow_neg, zpow_natCast] at hsmall
  rw [one_div] at hlow
  exact absurd hlow hsmall.not_ge

/-- The answered bits are monotone in the draw (R79). -/
theorem DividesByPow.unitBits_mono : Monotone (unitBits fmt w) := fun _ _ hyz =>
  floatBits_le_floatBits h.prec_pos (h.unitFloat_representable _) (h.unitFloat_representable _)
    (h.unitFloat_value_mono hyz)

theorem DividesByPow.floatValue_unitBits (y : Nat) :
    floatValue fmt (unitBits fmt w y) = binFloatValue (unitFloat fmt w y) :=
  floatValue_floatBits h.prec_pos (h.unitFloat_representable y)

theorem DividesByPow.unitBits_zero : unitBits fmt w 0 = 0 := floatBits_of_mant_zero fmt h.unitFloat_mant_zero

/-- A draw is answered 0, or between the answers to 1 and to the largest draw. -/
theorem DividesByPow.unitBits_zero_or_between {y : Nat} (hy : y < 2 ^ w) :
    unitBits fmt w y = 0 ∨
      (unitBits fmt w 1 ≤ unitBits fmt w y ∧ unitBits fmt w y ≤ unitBits fmt w (2 ^ w - 1)) := by
  obtain rfl | hpos := Nat.eq_zero_or_pos y
  · exact .inl h.unitBits_zero
  · exact .inr ⟨h.unitBits_mono hpos, h.unitBits_mono (Nat.le_sub_one_of_lt hy)⟩

/-- The draws with the largest draw's answer are those from the first one on. -/
theorem DividesByPow.le_iff_unitBits_eq {a b y below top : Nat} (ha : unitBits fmt w a = below)
    (hb : unitBits fmt w b = top) (htop : unitBits fmt w (2 ^ w - 1) = top) (hlt : below < top) (hab : b = a + 1)
    (hy : y < 2 ^ w) : b ≤ y ↔ unitBits fmt w y = top := by
  constructor
  · intro hby
    have hhigh := h.unitBits_mono (Nat.le_sub_one_of_lt hy)
    have hlow := h.unitBits_mono hby
    omega
  · intro heq
    by_contra! hyb
    have hlow := h.unitBits_mono (show y ≤ a by omega)
    omega

end

/-! ### `SF32` and `SF64` -/

theorem unitBits_binary32_corners :
    unitBits binary32 32 1 = 0x2F800000 ∧ unitBits binary32 32 0x7FFFFFFF = 0x3F000000 ∧
    unitBits binary32 32 0x80000000 = 0x3F000000 ∧ unitBits binary32 32 0xFFFFFF7F = 0x3F7FFFFF ∧
    unitBits binary32 32 0xFFFFFF80 = 0x3F800000 ∧ unitBits binary32 32 (2 ^ 32 - 1) = 0x3F800000 := by
  decide

theorem unitBits_binary64_corners :
    unitBits binary64 64 1 = 0x3BF0000000000000 ∧ unitBits binary64 64 (2 ^ 63) = 0x3FE0000000000000 ∧
    unitBits binary64 64 (2 ^ 64 - 1025) = 0x3FEFFFFFFFFFFFFF ∧
    unitBits binary64 64 (2 ^ 64 - 1024) = 0x3FF0000000000000 ∧
    unitBits binary64 64 (2 ^ 64 - 1) = 0x3FF0000000000000 := by
  decide

/-- The answer's 64 bits hold the whole pattern. -/
theorem toNat_floatResult32 {y : Word64} (hy : y.toNat < 2 ^ 32) :
    (floatResult32 y).toNat = unitBits binary32 32 y.toNat := by
  obtain ⟨-, -, -, -, -, htop⟩ := unitBits_binary32_corners
  have hle := dividesByPow_binary32.unitBits_mono (Nat.le_sub_one_of_lt hy)
  have hlt : unitBits binary32 32 y.toNat < 2 ^ 64 := by rw [htop] at hle; omega
  exact (BitVec.toNat_ofNat ..).trans (Nat.mod_eq_of_lt hlt)

theorem toNat_floatResult64 (y : Word64) : (floatResult64 y).toNat = unitBits binary64 64 y.toNat := by
  obtain ⟨-, -, -, -, htop⟩ := unitBits_binary64_corners
  have hle := dividesByPow_binary64.unitBits_mono (Nat.le_sub_one_of_lt y.isLt)
  have hlt : unitBits binary64 64 y.toNat < 2 ^ 64 := by rw [htop] at hle; omega
  exact (BitVec.toNat_ofNat ..).trans (Nat.mod_eq_of_lt hlt)

theorem exec_sf32 (s : State) : exec .sf32 s = .next (whenSeeded (sampleAndRespond 32 floatResult32) s) := rfl
theorem exec_sf64 (s : State) : exec .sf64 s = .next (whenSeeded (sampleAndRespond 64 floatResult64) s) := rfl

/-- The three roundings behind an answer, and the value of its bit pattern. -/
theorem DividesByPow.three_roundings {fmt : FloatFormat} {w : Nat} (h : DividesByPow fmt w) (y : Nat) :
    ∃ fy fm f : BinFloat, IsNearestEven fmt.prec y fy ∧ IsNearestEven fmt.prec (2 ^ w - 1) fm ∧
      IsNearestEven fmt.prec (binFloatValue fy / binFloatValue fm) f ∧
      floatValue fmt (unitBits fmt w y) = binFloatValue f := by
  have hm := convert_isNearestEven h.two_le_prec (2 ^ w - 1)
  rw [Nat.cast_pred (Nat.two_pow_pos w)] at hm
  push_cast at hm
  exact ⟨_, _, _, convert_isNearestEven h.two_le_prec y, hm, h.unitFloat_isNearestEven y, h.floatValue_unitBits y⟩

/-- Settles O39: both formats round their divisor to a power of two, so every result is in the format's range. -/
theorem floatsAreThreeRoundingsToNearestEven : Obligations.FloatsAreThreeRoundingsToNearestEven := by
  refine ⟨fun y hy => ?_, fun y => ?_⟩
  · rw [toNat_floatResult32 hy]
    exact dividesByPow_binary32.three_roundings y.toNat
  · rw [toNat_floatResult64]
    exact dividesByPow_binary64.three_roundings y.toNat

/-- Settles O40: the corners are computed, and the answers between them follow by monotonicity. -/
theorem sf32DrawsAndDivides : Obligations.Sf32DrawsAndDivides := by
  refine ⟨encodedBy_of_bareCommand (op := 0x30#8) (by decide) fun _ _ => rfl, rejectsUnseeded_of_not_isSeeding rfl,
    drawsAndAnswers_of_sampling (by decide) exec_sf32 fun y hy => ?_⟩
  obtain ⟨hone, hhalf, hhalf', hbelow, hfirst, htop⟩ := unitBits_binary32_corners
  have hbetween := dividesByPow_binary32.unitBits_zero_or_between hy
  have hiff := dividesByPow_binary32.le_iff_unitBits_eq hbelow hfirst htop (by norm_num) (by norm_num) hy
  rw [hone, htop] at hbetween
  rw [toNat_floatResult32 hy]
  refine ⟨rfl, fun h => ?_, fun h => ?_, fun h => ?_, fun h => ?_, hiff, hbetween⟩
  · rw [h, dividesByPow_binary32.unitBits_zero]
  · rw [h, hone]
  · obtain h | h := h
    · rw [h, hhalf]
    · rw [h, hhalf']
  · rw [h, hbelow]

/-- Settles O41: as `SF32`, in the wider format. -/
theorem sf64DrawsAndDivides : Obligations.Sf64DrawsAndDivides := by
  refine ⟨encodedBy_of_bareCommand (op := 0x31#8) (by decide) fun _ _ => rfl, rejectsUnseeded_of_not_isSeeding rfl,
    drawsAndAnswers_of_sampling (by decide) exec_sf64 fun y hy => ?_⟩
  obtain ⟨hone, hhalf, hbelow, hfirst, htop⟩ := unitBits_binary64_corners
  have hbetween := dividesByPow_binary64.unitBits_zero_or_between hy
  have hiff := dividesByPow_binary64.le_iff_unitBits_eq hbelow hfirst htop (by norm_num) (by norm_num) hy
  rw [hone, htop] at hbetween
  rw [toNat_floatResult64]
  refine ⟨rfl, fun h => ?_, fun h => ?_, fun h => ?_, fun h => ?_, hiff, hbetween⟩
  · rw [h, dividesByPow_binary64.unitBits_zero]
  · rw [h, hone]
  · rw [h, hhalf]
  · rw [h, hbelow]

end Sys2Proof
end

section
/-! PROOFS. Range and choice (spec/43_range_and_choice.md R82, R83): the reduced draw lies in the range, so no sum
wraps around, and a choice is the range from 0. -/

namespace Sys2Proof

open Machine

/-- A command whose operand check fails is a rejection behind the check of `seeded`. -/
theorem rejectsSeeded_of_raise {i : Instr} {f : CommandFault}
    (hexec : ∀ s, exec i s = .next (whenSeeded (raise f) s)) : RejectsSeeded i f := by
  intro s hs
  rw [hexec, whenSeeded_of_seeded hs]
  rfl

/-! ### `SRANGE` -/

/-- Bounds in the wrong order are rejected before the first sample (R82, R100). -/
theorem exec_srange_of_gt {a b : Word64} (h : b.toNat < a.toNat) (s : State) :
    exec (.srange a b) s = .next (whenSeeded (raise .invalidRange) s) := by
  have hcheck : rangeInvalid a b = true := decide_eq_true h
  simp [exec, execSrange, hcheck]

/-- Bounds in order pass the operand check, and 64 bits are drawn whatever the range (R82, R85). -/
theorem exec_srange_of_le {a b : Word64} (h : a.toNat ≤ b.toNat) (s : State) :
    exec (.srange a b) s = .next (whenSeeded (sampleAndRespond 64 (rangeResult a b)) s) := by
  have hcheck : rangeInvalid a b = false := decide_eq_false (Nat.not_lt.mpr h)
  simp [exec, execSrange, hcheck, rangeWidth]

/-- The offset of the answer stays within the range (R84). -/
theorem add_mod_rangeSize_le {a b : Word64} (h : a.toNat ≤ b.toNat) (y : Nat) :
    a.toNat + y % rangeSize a b ≤ b.toNat := by
  have hoffset : y % rangeSize a b < b.toNat - a.toNat + 1 := Nat.mod_lt y (Nat.succ_pos _)
  omega

/-- The answer is the unbounded sum: it does not wrap around (R84). -/
theorem toNat_rangeResult {a b : Word64} (h : a.toNat ≤ b.toNat) (y : Word64) :
    (rangeResult a b y).toNat = a.toNat + y.toNat % rangeSize a b :=
  (BitVec.toNat_ofNat ..).trans (Nat.mod_eq_of_lt ((add_mod_rangeSize_le h y.toNat).trans_lt b.isLt))

/-- A range of one number answers that number (R82). -/
theorem rangeResult_self (a y : Word64) : rangeResult a a y = a := by
  apply BitVec.eq_of_toNat_eq
  rw [toNat_rangeResult le_rfl, rangeSize, Nat.sub_self, Nat.zero_add, Nat.mod_one, Nat.add_zero]

/-- The full range has `2^64` numbers and answers the draw itself (R82, D13). -/
theorem rangeResult_full (y : Word64) : rangeResult 0#64 (BitVec.allOnes 64) y = y := by
  apply BitVec.eq_of_toNat_eq
  have hsize : rangeSize 0#64 (BitVec.allOnes 64) = 2 ^ 64 := by decide
  rw [toNat_rangeResult (Nat.zero_le _), hsize, Nat.mod_eq_of_lt y.isLt]
  exact Nat.zero_add _

/-- Settles O44: the operand check parts the bounds at `a = b`, and the answer is the unbounded sum. -/
theorem srangeReducesOrRejects : Obligations.SrangeReducesOrRejects := by
  refine ⟨encodedBy_of_bareCommand (op := 0x40#8) (by decide) fun _ _ => rfl, fun a b =>
    ⟨rejectsUnseeded_of_not_isSeeding rfl, fun h => rejectsSeeded_of_raise (exec_srange_of_gt h), fun h =>
      drawsAndAnswers_of_sampling (by decide) (exec_srange_of_le h) fun y _ => ?_⟩⟩
  have hsum := toNat_rangeResult h y
  have hle := add_mod_rangeSize_le h y.toNat
  refine ⟨hsum, by omega, by omega, ?_, ?_⟩
  · rintro rfl
    exact rangeResult_self a y
  · rintro rfl rfl
    exact rangeResult_full y

/-! ### `CHOOSE` -/

/-- The empty sequence is rejected before the first sample (R83, R101). -/
theorem exec_choose_zero (s : State) : exec (.choose 0#64) s = .next (whenSeeded (raise .emptyInput) s) := rfl

/-- A non-empty sequence passes the operand check (R83). -/
theorem exec_choose_of_ne_zero {len : Word64} (h : len ≠ 0#64) (s : State) :
    exec (.choose len) s = .next (whenSeeded (sampleAndRespond 64 (chooseResult len)) s) := by
  have hcheck : sequenceEmpty len = false := decide_eq_false (by bv_omega)
  simp [exec, execChoose, hcheck, rangeWidth]

/-- The indices of a non-empty sequence are the range `0..L-1`, of size `L` (R83). -/
theorem rangeSize_zero_sub_one {len : Word64} (h : len ≠ 0#64) : rangeSize 0#64 (len - 1#64) = len.toNat := by
  rw [rangeSize]
  bv_omega

/-- A choice reduces its draw as the range `0..L-1` does (R83). -/
theorem chooseResult_eq_rangeResult {len : Word64} (h : len ≠ 0#64) :
    chooseResult len = rangeResult 0#64 (len - 1#64) := by
  funext y
  rw [chooseResult, rangeResult, rangeSize_zero_sub_one h, BitVec.toNat_zero, Nat.zero_add]

/-- The index is the remainder by the length. -/
theorem toNat_chooseResult {len : Word64} (h : len ≠ 0#64) (y : Word64) :
    (chooseResult len y).toNat = y.toNat % len.toNat := by
  rw [chooseResult_eq_rangeResult h, toNat_rangeResult (Nat.zero_le _), rangeSize_zero_sub_one h]
  exact Nat.zero_add _

/-- Settles O45: a choice from a non-empty sequence is the range from 0, whose bounds are in order. -/
theorem chooseIndexesOrRejects : Obligations.ChooseIndexesOrRejects := by
  refine ⟨encodedBy_of_bareCommand (op := 0x41#8) (by decide) fun _ _ => rfl, rejectsSeeded_of_raise exec_choose_zero,
    fun len => ⟨rejectsUnseeded_of_not_isSeeding rfl, fun hlen => ⟨?_, fun s => ?_⟩⟩⟩
  · refine drawsAndAnswers_of_sampling (by decide) (exec_choose_of_ne_zero hlen) fun y _ => ?_
    have hpos : 0 < len.toNat := by bv_omega
    rw [toNat_chooseResult hlen]
    exact ⟨rfl, Nat.mod_lt y.toNat hpos⟩
  · rw [exec_choose_of_ne_zero hlen, exec_srange_of_le (Nat.zero_le _), chooseResult_eq_rangeResult hlen]

end Sys2Proof
end

section
/-! PROOFS. Construction and observation (spec/44_construction_and_observation.md R89 to R91): the two commands that
write the register and set `seeded`, and the pure read. -/

namespace Sys2Proof

open Machine

/-! ### The register and the 64-bit ports -/

/-- The seed is the operand reduced to the register's width (R89). -/
theorem toNat_seedValue (n : Nat) (value : Word64) : (seedValue n value).toNat = value.toNat % 2 ^ n :=
  BitVec.toNat_setWidth n value

/-- The result port carries the register's low 64 bits, and 0 above the register (R91). -/
theorem getLsbD_stateResult {n : Nat} (v : BitVec n) (i : Nat) :
    (stateResult v).getLsbD i = (decide (i < 64) && v.getLsbD i) :=
  BitVec.getLsbD_setWidth 64 v i

/-- A register no wider than the port is carried whole (R91). -/
theorem toNat_stateResult {n : Nat} (hn : n ≤ 64) (v : BitVec n) : (stateResult v).toNat = v.toNat :=
  BitVec.toNat_setWidth_of_le hn

/-- Seeding with a register read whole gives that register (R94). -/
theorem seedValue_stateResult {n : Nat} (hn : n ≤ 64) (v : BitVec n) : seedValue n (stateResult v) = v := by
  apply BitVec.eq_of_toNat_eq
  rw [toNat_seedValue, toNat_stateResult hn, Nat.mod_eq_of_lt v.isLt]

/-! ### The commands -/

/-- Constructing the engine: the register takes `v`, `seeded` is set, and the command answers 0 (R89, R90). -/
def construct (s : State) (v : BitVec s.cfg.n) : State := respond .ok 0#64 (markSeeded (setState s v))

theorem construct_eq (s : State) (v : BitVec s.cfg.n) :
    construct s v = { s with state := v, seeded := true, responses := s.responses ++ [⟨.ok, 0#64⟩] } := rfl

theorem exec_seed (value : Word64) (s : State) :
    exec (.seed value) s = .next (construct s (seedValue s.cfg.n value)) := rfl

theorem exec_seeddbg (s : State) : exec .seeddbg s = .next (construct s s.cfg.debugSeed) := rfl

/-- After construction `RDSTATE` answers the register and writes nothing (R91). -/
theorem exec_rdstate_of_seeded {s : State} (hs : s.seeded = true) :
    exec .rdstate s = .next (respond .ok (stateResult s.state) s) :=
  congrArg Host.Outcome.next (whenSeeded_of_seeded hs)

/-- Settles O46: the seed written is the operand reduced to the register's width. -/
theorem seedWritesTheTruncatedValue : Obligations.SeedWritesTheTruncatedValue := by
  refine ⟨encodedBy_of_bareCommand (op := 0x01#8) (by decide) fun _ _ => rfl, fun s value => ?_⟩
  refine ⟨seedValue s.cfg.n value, toNat_seedValue s.cfg.n value, ?_⟩
  rw [exec_seed, construct_eq]

/-- Settles O47: `SEEDDBG` constructs as `SEED` does, and a debug seed no wider than the port passes it whole. -/
theorem seeddbgWritesTheDebugSeed : Obligations.SeeddbgWritesTheDebugSeed := by
  refine ⟨encodedBy_of_bareCommand (op := 0x02#8) (by decide) fun _ _ => rfl, fun s => ?_, fun s hn => ?_,
    by decide, by decide, by decide, by decide⟩
  · rw [exec_seeddbg, construct_eq]
  · have hport : BitVec.ofNat 64 s.cfg.debugSeed.toNat = stateResult s.cfg.debugSeed := BitVec.ofNat_toNat 64 _
    rw [exec_seeddbg, exec_seed, hport, seedValue_stateResult hn]

/-- Settles O48: the response carries the zero-extended register. -/
theorem rdstateReadsAndWritesNothing : Obligations.RdstateReadsAndWritesNothing := by
  refine ⟨encodedBy_of_bareCommand (op := 0x03#8) (by decide) fun _ _ => rfl,
    rejectsUnseeded_of_not_isSeeding rfl, fun s hs => ?_⟩
  exact ⟨stateResult s.state, getLsbD_stateResult s.state, fun hn => toNat_stateResult hn s.state,
    exec_rdstate_of_seeded hs⟩

end Sys2Proof
end

section
/-! PROOFS. The faults (spec/60_exceptions.md R99 to R107): which fault a presented command deserves is a function of
its word and of `seeded`, and the step answers exactly that one, or `OK` when there is none. -/

namespace Sys2Proof

open Machine

/-! ### The operand faults -/

/-- The three commands with an operand fault, each with the operands that deserve it (R99 to R102). -/
theorem operandFault_cases {i : Instr} {f : CommandFault} (h : operandFault i = some f) :
    (f = .bitWidthExceeded ∧ ∃ n, i = .suint n ∧ 64 < n) ∨
    (f = .invalidRange ∧ ∃ a b, i = .srange a b ∧ b.toNat < a.toNat) ∨
    (f = .emptyInput ∧ i = .choose 0#64) := by
  cases i with
  | suint n =>
    obtain ⟨hn, hf⟩ := (ite_some_cases h).resolve_right nofun
    exact .inl ⟨hf, n, rfl, hn⟩
  | srange a b =>
    obtain ⟨hab, hf⟩ := (ite_some_cases h).resolve_right nofun
    exact .inr (.inl ⟨hf, a, b, rfl, hab⟩)
  | choose len =>
    obtain ⟨rfl, hf⟩ := (ite_some_cases h).resolve_right nofun
    exact .inr (.inr ⟨hf, rfl⟩)
  | seed _ | seeddbg | rdstate | evolve | sbit | su8 | su32 | su64 | si32 | si64 | sf32 | sf64 => cases h

/-- A seeding command has no operand fault. -/
theorem operandFault_of_isSeeding {i : Instr} (hi : isSeeding i = true) : operandFault i = none := by
  cases hf : operandFault i with
  | none => rfl
  | some f => obtain ⟨-, n, rfl, -⟩ | ⟨-, a, b, rfl, -⟩ | ⟨-, rfl⟩ := operandFault_cases hf <;> cases hi

/-- A command whose operands deserve a fault is that rejection behind the check of `seeded`. -/
theorem exec_of_operandFault {i : Instr} {f : CommandFault} (h : operandFault i = some f) (s : State) :
    exec i s = .next (whenSeeded (raise f) s) := by
  obtain ⟨rfl, n, rfl, hn⟩ | ⟨rfl, a, b, rfl, hab⟩ | ⟨rfl, rfl⟩ := operandFault_cases h
  · exact exec_suint_of_gt hn s
  · exact exec_srange_of_gt hab s
  · exact exec_choose_zero s

/-! ### Commands that complete -/

/-- The command answers `OK`, writing the register and `seeded` at most. -/
def Completes (i : Instr) (s : State) : Prop :=
  ∃ v b r, exec i s = .next { s with state := v, seeded := b, responses := s.responses ++ [⟨.ok, r⟩] }

/-- A seeding command constructs the engine, seeded or not (R89, R90, R92). -/
theorem exec_of_isSeeding {i : Instr} (hi : isSeeding i = true) (s : State) :
    ∃ v, exec i s = .next (construct s v) := by
  cases i with
  | seed value => exact ⟨_, exec_seed value s⟩
  | seeddbg => exact ⟨_, exec_seeddbg s⟩
  | rdstate | evolve | sbit | suint _ | su8 | su32 | su64 | si32 | si64 | sf32 | sf64 | srange _ _ | choose _ =>
    cases hi

theorem completes_of_isSeeding {i : Instr} (hi : isSeeding i = true) (s : State) : Completes i s := by
  obtain ⟨v, hexec⟩ := exec_of_isSeeding hi s
  exact ⟨v, true, 0#64, hexec⟩

theorem completes_of_sampling {i : Instr} {s : State} {k : Nat} {f : Word64 → Word64} (hs : s.seeded = true)
    (hexec : exec i s = .next (whenSeeded (sampleAndRespond k f) s)) : Completes i s := by
  rw [whenSeeded_of_seeded hs] at hexec
  exact ⟨_, _, _, hexec⟩

/-- After construction every command whose operands deserve no fault completes. -/
theorem completes_of_seeded {i : Instr} {s : State} (hs : s.seeded = true) (hf : operandFault i = none) :
    Completes i s := by
  cases i with
  | seed _ | seeddbg => exact completes_of_isSeeding rfl s
  | rdstate => exact ⟨_, _, _, exec_rdstate_of_seeded hs⟩
  | evolve => exact ⟨_, _, _, exec_evolve_of_seeded hs⟩
  | sbit => exact ⟨_, _, _, exec_sbit_of_seeded hs⟩
  | su8 | su32 | su64 | si32 | si64 | sf32 | sf64 => exact completes_of_sampling hs rfl
  | suint n =>
    have hn : n ≤ 64 := by simpa [operandFault] using hf
    exact completes_of_sampling hs (exec_suint_of_le hn s)
  | srange a b =>
    have hab : a ≤ b := by simpa [operandFault] using hf
    exact completes_of_sampling hs (exec_srange_of_le hab s)
  | choose len =>
    have hlen : len ≠ 0#64 := by simpa [operandFault] using hf
    exact completes_of_sampling hs (exec_choose_of_ne_zero hlen s)

/-! ### The one fault reported -/

/-- The fault a presented command is answered with, the first of R107's order, if it deserves one. -/
def reportedFault (s : State) (t : Transaction) : Option CommandFault :=
  match decode t with
  | .error _ => some .illegalCommand
  | .ok i => if isSeeding i = false ∧ s.seeded = false then some .notSeeded else operandFault i

theorem reportedFault_of_error (s : State) {t : Transaction} {e : DecodeError} (hd : decode t = .error e) :
    reportedFault s t = some .illegalCommand := by
  simp only [reportedFault, hd]

theorem reportedFault_of_ok (s : State) {t : Transaction} {i : Instr} (hd : decode t = .ok i) :
    reportedFault s t =
      if isSeeding i = false ∧ s.seeded = false then some .notSeeded else operandFault i := by
  simp only [reportedFault, hd]

theorem reportedFault_of_isSeeding (s : State) {t : Transaction} {i : Instr} (hd : decode t = .ok i)
    (hi : isSeeding i = true) : reportedFault s t = none := by
  rw [reportedFault_of_ok s hd, if_neg (by simp [hi]), operandFault_of_isSeeding hi]

theorem reportedFault_of_unseeded {s : State} {t : Transaction} {i : Instr} (hd : decode t = .ok i)
    (hi : isSeeding i = false) (hs : s.seeded = false) : reportedFault s t = some .notSeeded := by
  rw [reportedFault_of_ok s hd, if_pos ⟨hi, hs⟩]

theorem reportedFault_of_seeded {s : State} {t : Transaction} {i : Instr} (hd : decode t = .ok i)
    (hs : s.seeded = true) : reportedFault s t = operandFault i := by
  rw [reportedFault_of_ok s hd, if_neg (by simp [hs])]

/-- Which command deserves which fault (R99). -/
theorem reportedFault_cases {s : State} {t : Transaction} {f : CommandFault} (h : reportedFault s t = some f) :
    (f = .illegalCommand ∧ legal t = false) ∨
    (f = .notSeeded ∧ s.seeded = false ∧ ∃ i, decode t = .ok i ∧ isSeeding i = false) ∨
    (f = .invalidRange ∧ ∃ a b, decode t = .ok (.srange a b) ∧ b.toNat < a.toNat) ∨
    (f = .emptyInput ∧ decode t = .ok (.choose 0#64)) ∨
    (f = .bitWidthExceeded ∧ ∃ n, decode t = .ok (.suint n) ∧ 64 < n) := by
  cases hd : decode t with
  | error e =>
    rw [reportedFault_of_error s hd] at h
    exact .inl ⟨(Option.some.inj h).symm, legal_of_error hd⟩
  | ok i =>
    rw [reportedFault_of_ok s hd] at h
    obtain ⟨⟨hi, hs⟩, hf⟩ | hoperand := ite_some_cases h
    · exact .inr (.inl ⟨hf, hs, i, rfl, hi⟩)
    · obtain ⟨hf, n, rfl, hn⟩ | ⟨hf, a, b, rfl, hab⟩ | ⟨hf, rfl⟩ := operandFault_cases hoperand
      · exact .inr (.inr (.inr (.inr ⟨hf, n, rfl, hn⟩)))
      · exact .inr (.inr (.inl ⟨hf, a, b, rfl, hab⟩))
      · exact .inr (.inr (.inr (.inl ⟨hf, rfl⟩)))

/-- `NotSeeded` is reported before construction only (R104). -/
theorem unseeded_of_reportedFault {s : State} {t : Transaction} (h : reportedFault s t = some .notSeeded) :
    s.seeded = false := by
  obtain ⟨hf, -⟩ | ⟨-, hs, -⟩ | ⟨hf, -⟩ | ⟨hf, -⟩ | ⟨hf, -⟩ := reportedFault_cases h
  case inr.inl => exact hs
  all_goals cases hf

/-! ### What the step answers -/

/-- A presented command is answered with the fault it deserves and nothing else changes, or it deserves none and
completes (R105 to R107). -/
theorem step_command_cases {s : State} {t : Transaction} {rest : List HostEvent}
    (hp : s.pending = .command t :: rest) :
    (∃ f, reportedFault s t = some f ∧ step s = .next (raise f (setPending s rest))) ∨
    (reportedFault s t = none ∧ ∃ i, step s = exec i (setPending s rest) ∧ Completes i (setPending s rest)) := by
  cases hd : decode t with
  | error e => exact .inl ⟨_, reportedFault_of_error s hd, step_of_decode_error hp hd⟩
  | ok i =>
    have hstep := step_of_decode_ok hp hd
    cases hi : isSeeding i with
    | true => exact .inr ⟨reportedFault_of_isSeeding s hd hi, i, hstep, completes_of_isSeeding hi _⟩
    | false =>
      cases hs : s.seeded with
      | false =>
        exact .inl ⟨_, reportedFault_of_unseeded hd hi hs,
          hstep.trans (rejectsUnseeded_of_not_isSeeding hi (setPending s rest) hs)⟩
      | true =>
        have hs' : (setPending s rest).seeded = true := hs
        rw [reportedFault_of_seeded hd hs]
        cases hf : operandFault i with
        | none => exact .inr ⟨rfl, i, hstep, completes_of_seeded hs' hf⟩
        | some f =>
          exact .inl ⟨f, rfl, by rw [hstep, exec_of_operandFault hf, whenSeeded_of_seeded hs']⟩

/-- A presented command that adds a response with a fault deserved that fault, and was rejected with it. -/
theorem rejected_of_step {s u : State} {t : Transaction} {rest : List HostEvent} {r : Response} {f : CommandFault}
    (hp : s.pending = .command t :: rest) (hstep : step s = .next u) (hu : u.responses = s.responses ++ [r])
    (hr : r.status = .fault f) :
    reportedFault s t = some f ∧ r = ⟨.fault f, 0#64⟩ ∧ u = raise f (setPending s rest) := by
  obtain ⟨g, hg, hraise⟩ | ⟨-, i, hexec, v, b, x, hok⟩ := step_command_cases hp
  · cases hstep.symm.trans hraise
    obtain rfl : ⟨.fault g, 0#64⟩ = r := List.singleton_inj.mp (List.append_cancel_left hu)
    cases hr
    exact ⟨hg, rfl, rfl⟩
  · cases hstep.symm.trans (hexec.trans hok)
    obtain rfl : ⟨.ok, x⟩ = r := List.singleton_inj.mp (List.append_cancel_left hu)
    cases hr

/-- Only a presented command is answered (R108, R118). -/
theorem command_of_step_responds {s u : State} {r : Response} (hstep : step s = .next u)
    (hu : u.responses = s.responses ++ [r]) : ∃ t rest, s.pending = .command t :: rest := by
  obtain ⟨-, h⟩ | ⟨rest, -, h⟩ | ⟨t, rest, e, hp, -, -⟩ | ⟨t, rest, i, hp, -, -⟩ := step_cases s
  · cases hstep.symm.trans h
    simp at hu
  · cases hstep.symm.trans h
    simp at hu
  · exact ⟨t, rest, hp⟩
  · exact ⟨t, rest, hp⟩

/-! ### The statements -/

/-- Settles O8: the status is that of `reportedFault`, which checks in R107's order. -/
theorem faultPriority : Obligations.FaultPriority := by
  intro s t rest hp
  have hanswer : ∃ u r, step s = .next u ∧ u.responses = s.responses ++ [r] ∧
      r.status = (reportedFault s t).elim .ok .fault := by
    obtain ⟨f, hf, hraise⟩ | ⟨hf, i, hexec, v, b, x, hok⟩ := step_command_cases hp
    · exact ⟨_, ⟨.fault f, 0#64⟩, hraise, rfl, by rw [hf]; rfl⟩
    · exact ⟨_, ⟨.ok, x⟩, hexec.trans hok, rfl, by rw [hf]; rfl⟩
  obtain ⟨u, r, hstep, hu, hr⟩ := hanswer
  refine ⟨u, r, hstep, hu, fun hillegal => ?_, fun i hd => ?_⟩
  · cases hd : decode t with
    | error e => rw [hr, reportedFault_of_error s hd]; rfl
    | ok i => cases hillegal.symm.trans (legal_of_ok hd)
  · rw [hr, reportedFault_of_ok s hd]
    by_cases hunseeded : isSeeding i = false ∧ s.seeded = false
    · rw [if_pos hunseeded, if_pos hunseeded]; rfl
    · rw [if_neg hunseeded, if_neg hunseeded]
      cases operandFault i <;> rfl

/-- Settles O15: a status that is not `OK` is that of a rejection, which writes the response alone. -/
theorem rejectedCommandsWriteNothing : Obligations.RejectedCommandsWriteNothing := by
  intro s u t rest r hp hstep hu hr
  cases hst : r.status with
  | ok => exact absurd hst hr
  | fault f =>
    obtain ⟨-, rfl, rfl⟩ := rejected_of_step hp hstep hu hst
    exact ⟨rfl, rfl⟩

theorem statusCode_le_five (st : Status) : (statusCode st).toNat ≤ 5 := by
  cases st with
  | ok => decide
  | fault f => cases f <;> decide

/-- Settles O20: the fault added is the one reported, and each fault is reported for its own reason. -/
theorem faultTable : Obligations.FaultTable := by
  refine ⟨⟨rfl, rfl, rfl, rfl, rfl, rfl⟩, statusCode_le_five, fun s u t rest f v hp hstep hu => ?_⟩
  obtain ⟨hf, hr, -⟩ := rejected_of_step hp hstep hu rfl
  exact ⟨congrArg Response.result hr, reportedFault_cases hf⟩

/-- Settles O21: a `NotSeeded` response is the rejection of a presented command, which was unseeded then; and the
seeding commands construct. -/
theorem notSeededUntilConstructed : Obligations.NotSeededUntilConstructed := by
  refine ⟨fun i hi => rejectsUnseeded_of_not_isSeeding hi, fun s u r hs hstep hu hr => ?_, fun i s hi => ?_⟩
  · obtain ⟨t, rest, hp⟩ := command_of_step_responds hstep hu
    obtain ⟨hf, -, -⟩ := rejected_of_step hp hstep hu hr
    cases hs.symm.trans (unseeded_of_reportedFault hf)
  · exact exec_of_isSeeding hi s

end Sys2Proof
end

section
/-! PROOFS. Reset (spec/70_reset_and_hazards.md R118, R119): it alone clears `seeded`, and until the engine is
constructed again no answer tells what the register holds. -/

namespace Sys2Proof

open Machine

/-! ### The step without a command -/

/-- An idle host leaves the machine as it is. -/
theorem step_of_idle {s : State} (hp : s.pending = []) : step s = .next s := by
  simp only [step, takeEvent_nil hp]

/-- A reset is taken alike between commands and during one (R118). -/
theorem step_of_reset {s : State} {rest : List HostEvent}
    (hp : s.pending = .reset :: rest ∨ ∃ c, s.pending = .resetDuring c :: rest) :
    step s = .next (takeReset (setPending s rest)) := by
  obtain hp | ⟨c, hp⟩ := hp <;> simp only [step, takeEvent_cons hp]

/-- No step stops the machine (spec/00_scope.md section 5). -/
theorem step_eq_next (s : State) : ∃ t, step s = .next t := by
  obtain ⟨-, h⟩ | ⟨rest, -, h⟩ | ⟨t, rest, e, -, -, h⟩ | ⟨t, rest, i, -, -, h⟩ := step_cases s
  case inr.inr.inr =>
    obtain ⟨v, b, r, hexec⟩ := exec_shape i (setPending s rest)
    exact ⟨_, h.trans hexec⟩
  all_goals exact ⟨_, h⟩

/-! ### Who writes `seeded` -/

/-- The act leaves `seeded` as it is. -/
def KeepsSeeded (act : State → State) : Prop := ∀ s : State, (act s).seeded = s.seeded

theorem raise_keepsSeeded (f : CommandFault) : KeepsSeeded (raise f) := fun _ => rfl

theorem sampleAndRespond_keepsSeeded (k : Nat) (f : Word64 → Word64) : KeepsSeeded (sampleAndRespond k f) :=
  fun _ => rfl

/-- A rejection in front of the draw. -/
theorem KeepsSeeded.checked {act : State → State} (h : KeepsSeeded act) (c : Bool) (f : CommandFault) :
    KeepsSeeded fun s => if c then raise f s else act s := by
  cases c with
  | true => exact raise_keepsSeeded f
  | false => exact h

theorem KeepsSeeded.whenSeeded {act : State → State} (h : KeepsSeeded act) : KeepsSeeded (whenSeeded act) := by
  intro s
  cases hs : s.seeded with
  | true => rw [whenSeeded_of_seeded hs, h s, hs]
  | false => rw [whenSeeded_of_unseeded hs, raise_seeded, hs]

/-- Every command but the seeding ones ends in an act that leaves `seeded` as it is (R19). -/
theorem exec_keepsSeeded {i : Instr} (hi : isSeeding i = false) :
    ∃ act, KeepsSeeded act ∧ ∀ s, exec i s = .next (act s) := by
  cases i with
  | seed _ | seeddbg => cases hi
  | rdstate | evolve | sbit =>
    refine ⟨_, KeepsSeeded.whenSeeded ?_, fun _ => rfl⟩
    exact fun _ => rfl
  | su8 | su32 | su64 | si32 | si64 | sf32 | sf64 =>
    exact ⟨_, (sampleAndRespond_keepsSeeded _ _).whenSeeded, fun _ => rfl⟩
  | suint _ | srange _ _ | choose _ =>
    exact ⟨_, ((sampleAndRespond_keepsSeeded _ _).checked _ _).whenSeeded, fun _ => rfl⟩

/-- `seeded` after a command: a seeding command sets it, any other leaves it (R19). -/
theorem seeded_of_exec {i : Instr} {s t : State} (h : exec i s = .next t) :
    t.seeded = (s.seeded || isSeeding i) := by
  cases hi : isSeeding i with
  | true =>
    obtain ⟨v, hexec⟩ := exec_of_isSeeding hi s
    cases h.symm.trans hexec
    exact (Bool.or_true _).symm
  | false =>
    obtain ⟨act, hact, hexec⟩ := exec_keepsSeeded hi
    cases h.symm.trans (hexec s)
    rw [hact s, Bool.or_false]

/-- Settles O10: a reset is `takeReset` on the events left, and no other kind of step clears `seeded`. -/
theorem resetUnseedsAndNothingElseDoes : Obligations.ResetUnseedsAndNothingElseDoes := by
  refine ⟨fun s rest hp => ⟨Config.resetState s.resets s.cfg.n, step_of_reset hp⟩, fun s t hs hstep ht => ?_⟩
  obtain ⟨-, h⟩ | ⟨rest, hp, -⟩ | ⟨c, rest, e, -, -, h⟩ | ⟨c, rest, i, -, -, h⟩ := step_cases s
  · cases hstep.symm.trans h
    cases hs.symm.trans ht
  · exact ⟨rest, hp⟩
  · cases hstep.symm.trans h
    cases hs.symm.trans ht
  · have hkeeps := seeded_of_exec (h.symm.trans hstep)
    rw [setPending_seeded, hs, Bool.true_or, ht] at hkeeps
    cases hkeeps

/-! ### The register before construction -/

/-- The machines are one, or both are unseeded and differ in the register alone: all that a host could tell apart
is the same. -/
def AlikeToHost (s u : State) : Prop := u = s ∨ (s.seeded = false ∧ ∃ v, u = setState s v)

/-- A seeding command overwrites the register, whatever it held (R89, R90). -/
theorem exec_setState_of_isSeeding {i : Instr} (hi : isSeeding i = true) (s : State) (v : BitVec s.cfg.n) :
    exec i (setState s v) = exec i s := by
  cases i with
  | seed _ | seeddbg => rfl
  | rdstate | evolve | sbit | suint _ | su8 | su32 | su64 | si32 | si64 | sf32 | sf64 | srange _ _ | choose _ =>
    cases hi

/-- Before construction a command either seeds both machines alike or is rejected by both with `NotSeeded`. -/
theorem exec_unseeded_alike (i : Instr) {s : State} (hs : s.seeded = false) (v : BitVec s.cfg.n) :
    ∃ t t', exec i s = .next t ∧ exec i (setState s v) = .next t' ∧ AlikeToHost t t' := by
  cases hi : isSeeding i with
  | true =>
    obtain ⟨w, hexec⟩ := exec_of_isSeeding hi s
    exact ⟨_, _, hexec, (exec_setState_of_isSeeding hi s v).trans hexec, .inl rfl⟩
  | false =>
    have hrejects := rejectsUnseeded_of_not_isSeeding hi
    exact ⟨_, _, hrejects s hs, hrejects (setState s v) hs, .inr ⟨hs, v, rfl⟩⟩

/-- No host event tells the registers of two unseeded machines apart (R119). -/
theorem step_unseeded_alike {s : State} (hs : s.seeded = false) (v : BitVec s.cfg.n) :
    ∃ t t', step s = .next t ∧ step (setState s v) = .next t' ∧ AlikeToHost t t' := by
  obtain ⟨hp, h⟩ | ⟨rest, hp, h⟩ | ⟨c, rest, e, hp, hd, h⟩ | ⟨c, rest, i, hp, hd, h⟩ := step_cases s
  · exact ⟨_, _, h, step_of_idle (s := setState s v) hp, .inr ⟨hs, v, rfl⟩⟩
  · exact ⟨_, _, h, step_of_reset (s := setState s v) hp, .inl rfl⟩
  · exact ⟨_, _, h, step_of_decode_error (s := setState s v) hp hd, .inr ⟨hs, v, rfl⟩⟩
  · rw [h, step_of_decode_ok (s := setState s v) hp hd]
    exact exec_unseeded_alike i (s := setPending s rest) hs v

/-- Machines alike to the host stay alike in every step. -/
theorem AlikeToHost.step_next {s u : State} (h : AlikeToHost s u) :
    ∃ t t', step s = .next t ∧ step u = .next t' ∧ AlikeToHost t t' := by
  obtain rfl | ⟨hs, v, rfl⟩ := h
  · obtain ⟨t, hstep⟩ := step_eq_next u
    exact ⟨t, t, hstep, hstep, .inl rfl⟩
  · exact step_unseeded_alike hs v

/-- Machines alike to the host stay alike in every run. -/
theorem AlikeToHost.runSteps_next {s u : State} (h : AlikeToHost s u) (k : Nat) :
    ∃ t t', runSteps k s = .next t ∧ runSteps k u = .next t' ∧ AlikeToHost t t' := by
  induction k generalizing s u with
  | zero => exact ⟨s, u, runSteps_zero s, runSteps_zero u, h⟩
  | succ k ih =>
    obtain ⟨s₁, u₁, hs, hu, halike⟩ := h.step_next
    rw [runSteps_succ hs, runSteps_succ hu]
    exact ih halike

/-- Settles O52: the two runs stay alike, and alike machines are one machine or both unseeded. -/
theorem resetContentIsUnobservable : Obligations.ResetContentIsUnobservable := by
  intro s v k hs
  have hstart : AlikeToHost s (setState s v) := .inr ⟨hs, v, rfl⟩
  obtain ⟨t, u, ht, hu, rfl | ⟨hunseeded, w, rfl⟩⟩ := hstart.runSteps_next k
  · exact ⟨u, u, ht, hu, rfl, rfl, rfl, fun _ => rfl⟩
  · refine ⟨t, setState t w, ht, hu, rfl, rfl, rfl, fun hseeded => ?_⟩
    cases hseeded.symm.trans hunseeded

end Sys2Proof
end

section
/-! PROOFS. The encoder and the count of legal words (spec/30_encoding.md sections 2 to 6): every command's word has
the command's opcode, and a word is legal by its two fields alone. -/

namespace Sys2Proof

/-! ### The round trip -/

/-- The word of a bare command decodes to it, whatever the ports it does not use. -/
theorem decode_bare_word {op : Byte} {opa opb : Word64} {i : Instr} (hop : op ≠ 0x20#8)
    (hbare : bareCommand op opa opb = some i) : decode ⟨commandWord op 0#8, opa, opb⟩ = .ok i := by
  have hfield := opcodeField_commandWord op 0#8
  exact decode_bare (hfield.trans_ne hop) (imm8Field_commandWord op 0#8) (by rw [hfield, hbare])

/-- Settles O1: `SUINT`'s count is its immediate; every other command's word is its opcode with a zero immediate, and
the ports carry its operands. -/
theorem decodeEncodeRoundTrip : Obligations.DecodeEncodeRoundTrip := by
  intro i hwf
  cases i with
  | seed v => exact decode_bare_word (op := 0x01#8) (by decide) rfl
  | seeddbg => exact decode_bare_word (op := 0x02#8) (by decide) rfl
  | rdstate => exact decode_bare_word (op := 0x03#8) (by decide) rfl
  | evolve => exact decode_bare_word (op := 0x10#8) (by decide) rfl
  | sbit => exact decode_bare_word (op := 0x11#8) (by decide) rfl
  | suint n =>
    have hn : n < 256 := of_decide_eq_true hwf
    rw [encode, commandWord_suint hn]
    exact decode_suint_word hn 0#64 0#64
  | su8 => exact decode_bare_word (op := 0x21#8) (by decide) rfl
  | su32 => exact decode_bare_word (op := 0x22#8) (by decide) rfl
  | su64 => exact decode_bare_word (op := 0x23#8) (by decide) rfl
  | si32 => exact decode_bare_word (op := 0x24#8) (by decide) rfl
  | si64 => exact decode_bare_word (op := 0x25#8) (by decide) rfl
  | sf32 => exact decode_bare_word (op := 0x30#8) (by decide) rfl
  | sf64 => exact decode_bare_word (op := 0x31#8) (by decide) rfl
  | srange a b => exact decode_bare_word (op := 0x40#8) (by decide) rfl
  | choose len => exact decode_bare_word (op := 0x41#8) (by decide) rfl

/-- Settles O6: each word is its fields written out, and the last has a bare command's opcode with the immediate 1. -/
theorem handWrittenWordsDecode : Obligations.HandWrittenWordsDecode :=
  ⟨decode_bare_word (op := 0x01#8) (by decide) rfl, decode_bare_word (op := 0x10#8) (by decide) rfl,
    decode_suint_word (n := 12) (by decide) _ _, decode_bare_word (op := 0x25#8) (by decide) rfl,
    decode_bare_word (op := 0x30#8) (by decide) rfl, decode_bare_word (op := 0x40#8) (by decide) rfl, by decide⟩

/-! ### The count -/

/-- A word is legal when its opcode is `SUINT`'s, or a bare command's with a zero immediate (R48, R49). -/
theorem legal_commandWord (op imm : Byte) (opa opb : Word64) :
    legal ⟨commandWord op imm, opa, opb⟩ =
      (decide (op = 0x20#8) || (decide (imm = 0#8) && (bareCommand op 0#64 0#64).isSome)) := by
  rw [bareCommand_isSome op 0#64 0#64 opa opb]
  simp only [legal, decode, opcodeField_commandWord, imm8Field_commandWord]
  by_cases hop : op = 0x20#8
  · simp [hop]
  · cases hbare : bareCommand op opa opb with
    | none => simp [hop]
    | some i => by_cases himm : imm = 0#8 <;> simp [hop, himm]

/-- How many of an opcode's 256 words are legal: all, one or none. -/
def legalImmediates (op : Byte) : Nat :=
  if op = 0x20#8 then 256 else if (bareCommand op 0#64 0#64).isSome then 1 else 0

theorem length_filter_legal (op : Byte) (opa opb : Word64) :
    ((List.range 256).filter fun imm => legal ⟨commandWord op (BitVec.ofNat 8 imm), opa, opb⟩).length =
      legalImmediates op := by
  have hone : ((List.range 256).filter fun imm => decide (BitVec.ofNat 8 imm = 0#8)).length = 1 := by decide
  simp only [legal_commandWord, legalImmediates]
  by_cases hop : op = 0x20#8
  · simp [hop]
  · cases (bareCommand op 0#64 0#64).isSome with
    | true => simpa [hop] using hone
    | false => simp [hop]

/-- Opcodes have 256 legal words for each `SUINT` among them, and one for each bare command. -/
theorem sum_legalImmediates (ops : List Nat) :
    (ops.map fun op => legalImmediates (BitVec.ofNat 8 op)).sum =
      256 * (ops.filter fun op => BitVec.ofNat 8 op = 0x20#8).length +
        (ops.filter fun op => (bareCommand (BitVec.ofNat 8 op) 0#64 0#64).isSome).length := by
  induction ops with
  | nil => rfl
  | cons op ops ih =>
    rw [List.map_cons, List.sum_cons, ih, legalImmediates, List.filter_cons, List.filter_cons]
    by_cases hop : BitVec.ofNat 8 op = 0x20#8
    · have hbare : (bareCommand 0x20#8 0#64 0#64).isSome = false := rfl
      simp only [hop, hbare, decide_true, if_true, Bool.false_eq_true, if_false, List.length_cons]
      omega
    · cases (bareCommand (BitVec.ofNat 8 op) 0#64 0#64).isSome with
      | true =>
        simp only [hop, decide_false, Bool.false_eq_true, if_true, if_false, List.length_cons]
        omega
      | false => simp [hop]

/-- Settles O5: `SUINT`'s 256 words and one of each of the fourteen other opcodes, added up over the opcodes. -/
theorem legalWordsNumber270 : Obligations.LegalWordsNumber270 := by
  refine ⟨fun opa opb => ?_, fun w => ?_⟩
  · simp only [length_filter_legal]
    have hsuint : ((List.range 256).filter fun op => BitVec.ofNat 8 op = 0x20#8).length = 1 := by decide
    have hbare : ((List.range 256).filter fun op =>
      (bareCommand (BitVec.ofNat 8 op) 0#64 0#64).isSome).length = 14 := by decide
    rw [sum_legalImmediates, hsuint, hbare]
  · refine ⟨(opcodeField w).toNat, (imm8Field w).toNat, (opcodeField w).isLt, (imm8Field w).isLt, ?_⟩
    rw [BitVec.ofNat_toNat, BitVec.ofNat_toNat, BitVec.setWidth_eq, BitVec.setWidth_eq, commandWord_fields]

end Sys2Proof
end

section
/-! PROOFS. What every step keeps (spec/00_scope.md sections 1 to 5, spec/10_state.md sections 4 and 7): the
configuration, the form of the responses, the flag `seeded`; and what a completed command costs
(spec/70_reset_and_hazards.md section 4). -/

namespace Sys2Proof

open Machine

/-! ### The configuration and the invariant -/

/-- Executing a command leaves the configuration as it is. -/
theorem cfg_of_exec {i : Instr} {s t : State} (h : exec i s = .next t) : t.cfg = s.cfg := by
  obtain ⟨v, b, r, hexec⟩ := exec_shape i s
  cases h.symm.trans hexec
  rfl

/-- No kind of step writes the configuration (R2, R118). -/
theorem cfg_of_step {s t : State} (h : step s = .next t) : t.cfg = s.cfg := by
  obtain ⟨-, hs⟩ | ⟨rest, -, hs⟩ | ⟨c, rest, e, -, -, hs⟩ | ⟨c, rest, i, -, -, hs⟩ := step_cases s
  case inr.inr.inr => exact cfg_of_exec (s := setPending s rest) (hs.symm.trans h)
  all_goals
    cases h.symm.trans hs
    rfl

/-- A step adds no response, or one that carries no value beside a fault (R42, R106). -/
theorem responses_of_step {s t : State} (h : step s = .next t) :
    t.responses = s.responses ∨ ∃ r, responseWf r ∧ t.responses = s.responses ++ [r] := by
  obtain ⟨-, hs⟩ | ⟨rest, -, hs⟩ | ⟨c, rest, -, hp, -, -⟩ | ⟨c, rest, -, hp, -, -⟩ := step_cases s
  · cases h.symm.trans hs
    exact .inl rfl
  · cases h.symm.trans hs
    exact .inl rfl
  all_goals
    obtain ⟨f, -, hraise⟩ | ⟨-, i, hexec, v, b, x, hok⟩ := step_command_cases hp
    · cases h.symm.trans hraise
      exact .inr ⟨⟨.fault f, 0#64⟩, fun _ => rfl, rfl⟩
    · cases h.symm.trans (hexec.trans hok)
      exact .inr ⟨⟨.ok, x⟩, fun hne => absurd rfl hne, rfl⟩

/-- Settles O16: the configuration is the same record, and the one response a step may add is well formed. -/
theorem invariantKeptByEveryStep : Obligations.InvariantKeptByEveryStep := by
  intro s t ⟨hcfg, hresponses⟩ hstep
  refine ⟨by rw [cfg_of_step hstep, hcfg], fun r hr => ?_⟩
  obtain heq | ⟨x, hx, heq⟩ := responses_of_step hstep
  · exact hresponses r (heq ▸ hr)
  · rw [heq, List.mem_append, List.mem_singleton] at hr
    obtain hold | rfl := hr
    · exact hresponses r hold
    · exact hx

/-- Settles O18: `cfg_of_step`. -/
theorem configurationNeverChanges : Obligations.ConfigurationNeverChanges := fun _ _ h => cfg_of_step h

/-- Settles O13: whichever kind of step it is, it answers a next state. -/
theorem everyStepGoesOn : Obligations.EveryStepGoesOn := step_eq_next

/-- Settles O9: there is no event to take. -/
theorem idleHostChangesNothing : Obligations.IdleHostChangesNothing := fun _ hp => step_of_idle hp

/-! ### The reset state -/

/-- Settles O12: the fields of the reset state as it is written down. -/
theorem resetStateIsUnseeded : Obligations.ResetStateIsUnseeded :=
  ⟨fun _ => ⟨rfl, rfl, rfl, rfl⟩, rfl, rfl, rfl⟩

/-- After reset no response has been given, so the invariant is that of the configuration. -/
theorem inv_resetOf {c : Cfg} (hc : c.wf = true) : Inv (State.resetOf c) := ⟨hc, nofun⟩

/-- Settles O17: both named configurations are well formed. -/
theorem invariantAtReset : Obligations.InvariantAtReset :=
  ⟨fun _ => inv_resetOf, inv_resetOf (by decide), inv_resetOf (by decide)⟩

/-! ### The flag -/

/-- The words of the seeding commands are `0x0100` and `0x0200` (R47). -/
theorem isSeeding_iff_of_decode_ok {c : Transaction} {i : Instr} (h : decode c = .ok i) :
    isSeeding i = true ↔ c.cmd = 0x0100#16 ∨ c.cmd = 0x0200#16 := by
  obtain ⟨-, hcmd⟩ := wf_and_encode_cmd_of_decode h
  constructor
  · intro hi
    rw [← hcmd]
    cases i with
    | seed _ => exact .inl rfl
    | seeddbg => exact .inr rfl
    | rdstate | evolve | sbit | suint _ | su8 | su32 | su64 | si32 | si64 | sf32 | sf64 | srange _ _ | choose _ =>
      cases hi
  · obtain ⟨w, opa, opb⟩ := c
    rintro (rfl | rfl)
    · cases h.symm.trans (decode_bare_word (op := 0x01#8) (by decide) rfl)
      rfl
    · cases h.symm.trans (decode_bare_word (op := 0x02#8) (by decide) rfl)
      rfl

/-- The words of the seeding commands are legal. -/
theorem cmd_ne_of_decode_error {c : Transaction} {e : DecodeError} (h : decode c = .error e) :
    c.cmd ≠ 0x0100#16 ∧ c.cmd ≠ 0x0200#16 := by
  obtain ⟨w, opa, opb⟩ := c
  constructor
  · rintro rfl
    cases h.symm.trans (decode_bare_word (op := 0x01#8) (by decide) rfl)
  · rintro rfl
    cases h.symm.trans (decode_bare_word (op := 0x02#8) (by decide) rfl)

/-- `seeded` after a presented command: what it was, or 1 if the word was a seeding command's (R19). -/
theorem seeded_of_command_step {s t : State} {c : Transaction} {rest : List HostEvent}
    (hp : s.pending = .command c :: rest) (h : step s = .next t) :
    t.seeded = (s.seeded || (c.cmd == 0x0100#16) || (c.cmd == 0x0200#16)) := by
  cases hd : decode c with
  | error e =>
    obtain ⟨hseed, hseeddbg⟩ := cmd_ne_of_decode_error hd
    cases h.symm.trans (step_of_decode_error hp hd)
    rw [beq_false_of_ne hseed, beq_false_of_ne hseeddbg, Bool.or_false, Bool.or_false]
    rfl
  | ok i =>
    have hi : isSeeding i = ((c.cmd == 0x0100#16) || (c.cmd == 0x0200#16)) :=
      Bool.eq_iff_iff.mpr (by simpa using isSeeding_iff_of_decode_ok hd)
    rw [seeded_of_exec ((step_of_decode_ok hp hd).symm.trans h), hi, setPending_seeded, Bool.or_assoc]

/-- Settles O11: the four shapes of the host's list, and the check of `seeded` in every command but the seeding
ones. -/
theorem seededFlagLifecycle : Obligations.SeededFlagLifecycle := by
  refine ⟨fun s t hstep => ?_, fun i hi => rejectsUnseeded_of_not_isSeeding hi⟩
  match hp : s.pending with
  | [] =>
    cases hstep.symm.trans (step_of_idle hp)
    rfl
  | .reset :: rest =>
    cases hstep.symm.trans (step_of_reset (.inl hp))
    rfl
  | .resetDuring c :: rest =>
    cases hstep.symm.trans (step_of_reset (.inr ⟨c, hp⟩))
    rfl
  | .command c :: rest => exact seeded_of_command_step hp hstep

/-! ### The cost of a command -/

/-- The command answers `OK`, and changes otherwise at most the register, which is `k` evolutions on. -/
def CompletesInSteps (i : Instr) (s : State) (k : Nat) : Prop :=
  ∃ r, exec i s = .next { s with state := evolved k s.state, responses := s.responses ++ [⟨.ok, r⟩] }

theorem completesInSteps_of_sampling {i : Instr} {s : State} {k : Nat} {f : Word64 → Word64} (hs : s.seeded = true)
    (hexec : exec i s = .next (whenSeeded (sampleAndRespond k f) s)) : CompletesInSteps i s k := by
  rw [whenSeeded_of_seeded hs, sampleAndRespond, afterDraw_eq] at hexec
  exact ⟨_, hexec⟩

/-- Every command but the seeding ones evolves the register as often as R126 counts. -/
theorem completesInSteps_of_seeded {i : Instr} {s : State} (hi : isSeeding i = false) (hs : s.seeded = true)
    (hf : operandFault i = none) : CompletesInSteps i s (evolutions i) := by
  cases i with
  | seed _ | seeddbg => cases hi
  | rdstate => exact ⟨_, exec_rdstate_of_seeded hs⟩
  | evolve => exact ⟨_, exec_evolve_of_seeded hs⟩
  | sbit => exact ⟨_, exec_sbit_of_seeded hs⟩
  | su8 | su32 | su64 | si32 | si64 | sf32 | sf64 => exact completesInSteps_of_sampling hs rfl
  | suint n =>
    have hn : n ≤ 64 := by simpa [operandFault] using hf
    exact completesInSteps_of_sampling hs (exec_suint_of_le hn s)
  | srange a b =>
    have hab : a ≤ b := by simpa [operandFault] using hf
    exact completesInSteps_of_sampling hs (exec_srange_of_le hab s)
  | choose len =>
    have hlen : len ≠ 0#64 := by simpa [operandFault] using hf
    exact completesInSteps_of_sampling hs (exec_choose_of_ne_zero hlen s)

/-- Settles O19: a seeding command leaves the flag set; any other is a counted run of evolutions. -/
theorem everyCommandCompletesAtItsCost : Obligations.EveryCommandCompletesAtItsCost := by
  intro i s hs hf
  cases hi : isSeeding i with
  | true =>
    obtain ⟨v, hexec⟩ := exec_of_isSeeding hi s
    rw [construct_eq, ← hs] at hexec
    exact ⟨v, 0#64, hexec, nofun⟩
  | false =>
    obtain ⟨r, hexec⟩ := completesInSteps_of_seeded hi hs hf
    exact ⟨_, r, hexec, fun _ => rfl⟩

end Sys2Proof
end

section
/-! PROOFS. Facts about the automaton (spec/40_engine.md section 2): the truth table, rotation, fixed points, the
predecessors of zero, the streams of degenerate seeds, and the evolution of a pattern that no width confines. -/

namespace Sys2Proof

open Machine

/-! ### The ring -/

/-- Cell `i` of the ring, for any number `i`: the cells repeat every `n` places. -/
def ringCell {n : Nat} (s : BitVec n) (i : Nat) : Bool := s.getLsbD (i % n)

theorem ringCell_of_lt {n : Nat} (s : BitVec n) {i : Nat} (hi : i < n) : ringCell s i = s.getLsbD i := by
  rw [ringCell, Nat.mod_eq_of_lt hi]

@[simp] theorem ringCell_add_width {n : Nat} (s : BitVec n) (i : Nat) : ringCell s (i + n) = ringCell s i := by
  rw [ringCell, ringCell, Nat.add_mod_right]

/-- Registers with the same cells round the ring are equal, wherever the comparison starts. -/
theorem eq_of_ringCell_eq {n : Nat} {s t : BitVec n} (d : Nat) (h : ∀ i, ringCell s (i + d) = ringCell t (i + d)) :
    s = t := by
  refine BitVec.eq_of_getLsbD_eq fun i hi => ?_
  obtain ⟨j, hj⟩ : ∃ j, (j + d) % n = i := by
    have hd : d ≤ n * d := Nat.le_mul_of_pos_left d (Nat.zero_lt_of_lt hi)
    refine ⟨i + (n * d - d), ?_⟩
    rw [show i + (n * d - d) + d = i + n * d by omega, Nat.add_mul_mod_self_left, Nat.mod_eq_of_lt hi]
  rw [← hj]
  exact h j

/-- The cell rule round the ring (R57). -/
theorem ringCell_evolveCells {n : Nat} (s : BitVec n) (i : Nat) :
    ringCell (evolveCells s) (i + 1) = (ringCell s i ^^ (ringCell s (i + 1) || ringCell s (i + 2))) := by
  obtain rfl | hn := Nat.eq_zero_or_pos n
  · simp [ringCell]
  have hleft : ((i + 1) % n + n - 1) % n = i % n := by
    rw [Nat.add_sub_assoc hn, Nat.mod_add_mod, show i + 1 + (n - 1) = i + n by omega, Nat.add_mod_right]
  simp only [ringCell]
  rw [getLsbD_evolveCells s (Nat.mod_lt _ hn), cellRule, hleft, Nat.mod_add_mod]

/-- Settles O25: the eight neighbourhoods. -/
theorem cellTruthTableReads30 : Obligations.CellTruthTableReads30 := by
  intro n i s hi
  rw [getLsbD_evolveCells s hi, cellRule]
  generalize s.getLsbD ((i + n - 1) % n) = l
  generalize s.getLsbD i = c
  generalize s.getLsbD ((i + 1) % n) = r
  revert l c r
  decide

/-! ### Rotation -/

/-- A rotation moves every cell `k` places up the ring (R9). -/
theorem ringCell_rotateLeft {n : Nat} (s : BitVec n) (k i : Nat) :
    ringCell (s.rotateLeft k) (i + k) = ringCell s i := by
  obtain rfl | hn := Nat.eq_zero_or_pos n
  · simp [ringCell]
  have hi := Nat.mod_lt i hn
  have hk := Nat.mod_lt k hn
  have hj := Nat.mod_lt (i + k) hn
  rw [ringCell, ringCell, BitVec.getLsbD_rotateLeft]
  rw [Nat.add_mod] at hj ⊢
  obtain hlt | hge := Nat.lt_or_ge (i % n + k % n) n
  · rw [Nat.mod_eq_of_lt hlt] at hj ⊢
    simp [hj]
  · have hwrap : (i % n + k % n) % n = i % n + k % n - n := by
      rw [Nat.mod_eq_sub_mod hge, Nat.mod_eq_of_lt (by omega)]
    have hlow : i % n + k % n - n < k % n := by omega
    rw [hwrap, decide_eq_true hlow, cond_true, show n - k % n + (i % n + k % n - n) = i % n by omega]

/-- Settles O26: the cell rule is the same at every place of the ring. -/
theorem evolutionCommutesWithRotation : Obligations.EvolutionCommutesWithRotation := by
  intro n k s
  refine eq_of_ringCell_eq (k + 1) fun i => ?_
  have hcell (j : Nat) : ringCell (s.rotateLeft k) (i + k + j) = ringCell s (i + j) := by
    rw [Nat.add_right_comm, ringCell_rotateLeft]
  calc ringCell (evolveCells (s.rotateLeft k)) (i + k + 1)
      = (ringCell s i ^^ (ringCell s (i + 1) || ringCell s (i + 2))) := by
        rw [ringCell_evolveCells, hcell 1, hcell 2, ringCell_rotateLeft]
    _ = ringCell ((evolveCells s).rotateLeft k) (i + k + 1) := by
        rw [Nat.add_right_comm, ringCell_rotateLeft, ringCell_evolveCells]

/-! ### Fixed points and predecessors of zero -/

/-- A register that is not zero has a set cell, one turn up the ring. -/
theorem exists_ringCell_of_ne_zero {n : Nat} {s : BitVec n} (h : s ≠ 0#n) : ∃ j, ringCell s (j + n) = true := by
  by_contra! hclear
  refine h (BitVec.eq_of_getLsbD_eq fun i hi => ?_)
  have hi' := hclear i
  rw [ringCell_add_width, ringCell_of_lt s hi] at hi'
  simpa using hi'

/-- If every set cell has the cell `d` places down set, a set cell has every `d`-th cell down the ring set. -/
theorem ringCell_of_descent {n d : Nat} {s : BitVec n}
    (hdown : ∀ i, ringCell s (i + d) = true → ringCell s i = true) {i j : Nat} (m : Nat) (hij : j = i + d * m)
    (hset : ringCell s j = true) : ringCell s i = true := by
  induction m generalizing j with
  | zero => rwa [hij] at hset
  | succ m ih => exact ih rfl (hdown _ (by rwa [Nat.add_assoc, ← Nat.mul_succ, ← hij]))

/-- Where zero follows, a set cell has a set left neighbour, so one set cell sets the whole ring. -/
theorem eq_allOnes_of_evolveCells_eq_zero {n : Nat} {s : BitVec n} (hE : evolveCells s = 0#n) (hne : s ≠ 0#n) :
    s = BitVec.allOnes n := by
  obtain ⟨j, hset⟩ := exists_ringCell_of_ne_zero hne
  have hleft (k : Nat) (hk : ringCell s (k + 1) = true) : ringCell s k = true := by
    have hrule := ringCell_evolveCells s k
    rw [hE, hk] at hrule
    simpa [ringCell] using hrule
  refine BitVec.eq_of_getLsbD_eq fun i hi => ?_
  have hcell : ringCell s i = true := ringCell_of_descent hleft (j + n - i) (by omega) hset
  rw [← ringCell_of_lt s hi, hcell, BitVec.getLsbD_allOnes, decide_eq_true hi]

/-- Settles O28: zero and all ones evolve alike, and they differ in cell 0. -/
theorem predecessorsOfZero : Obligations.PredecessorsOfZero := by
  refine ⟨fun n s => ⟨fun hE => or_iff_not_imp_left.mpr (eq_allOnes_of_evolveCells_eq_zero hE), ?_⟩,
    fun n hn hinj => ?_⟩
  · rintro (rfl | rfl)
    · exact evolveCells_zero n
    · exact evolveCells_allOnes n
  · have heq : 0#n = BitVec.allOnes n := hinj ((evolveCells_zero n).trans (evolveCells_allOnes n).symm)
    have hbit := congrArg (BitVec.getLsbD · 0) heq
    simp [hn] at hbit

/-- In a fixed point the left neighbour of a set cell is clear, and the cell left of that is set. -/
theorem ringCell_below_of_fixed {n : Nat} {s : BitVec n} (hE : evolveCells s = s) {i : Nat}
    (h : ringCell s (i + 2) = true) : ringCell s (i + 1) = false ∧ ringCell s i = true := by
  have hrule := ringCell_evolveCells s i
  have hrule' := ringCell_evolveCells s (i + 1)
  rw [hE, h] at hrule hrule'
  have hclear : ringCell s (i + 1) = false := by simpa using hrule'
  exact ⟨hclear, by simpa [hclear] using hrule⟩

/-- A fixed point of an even ring with a set cell alternates: going down the ring the set cell repeats every two
places, and the cells between are clear. -/
theorem alternating_of_fixed {n : Nat} {s : BitVec n} (hn : n % 2 = 0) (hE : evolveCells s = s) {j : Nat}
    (hset : ringCell s (j + n) = true) : Alternating (decide (j % 2 = 1)) s := by
  intro i hi
  have hdown (k : Nat) (hk : ringCell s (k + 2) = true) : ringCell s k = true := (ringCell_below_of_fixed hE hk).2
  rw [← ringCell_of_lt s hi]
  by_cases hparity : i % 2 = j % 2
  · have hcell : ringCell s i = true :=
      ringCell_of_descent hdown ((j + n - i) / 2) (by omega) hset
    rw [hcell, hparity, beq_self_eq_true]
  · have habove : ringCell s (i + 1 + n) = true := by
      rw [ringCell_add_width]
      exact ringCell_of_descent hdown ((j + n - (i + 1)) / 2) (by omega) hset
    have hclear : ringCell s i = false := by
      have hbelow := (ringCell_below_of_fixed (i := i + n - 1) hE (by rwa [show i + n - 1 + 2 = i + 1 + n by omega])).1
      rwa [show i + n - 1 + 1 = i + n by omega, ringCell_add_width] at hbelow
    rw [hclear, eq_comm, beq_eq_false_iff_ne, ne_eq, decide_eq_decide]
    omega

/-- Settles O27: a fixed point has no set cell, or alternates from it; and the three patterns are fixed. -/
theorem fixedPointsAreExactlyThree : Obligations.FixedPointsAreExactlyThree := by
  intro n s hn
  constructor
  · intro hE
    refine or_iff_not_imp_left.mpr fun hne => ?_
    obtain ⟨j, hset⟩ := exists_ringCell_of_ne_zero hne
    have halt := alternating_of_fixed hn hE hset
    cases hodd : decide (j % 2 = 1) with
    | true => exact .inl (hodd ▸ halt)
    | false => exact .inr (hodd ▸ halt)
  · rintro (rfl | halt | halt)
    · exact evolveCells_zero n
    · exact evolveCells_alternating hn halt
    · exact evolveCells_alternating hn halt

/-! ### The streams of degenerate seeds -/

/-- A fixed point stays what it is. -/
theorem evolved_of_fixed {n : Nat} {s : BitVec n} (h : evolveCells s = s) (k : Nat) : evolved k s = s :=
  Function.iterate_fixed h k

/-- All ones are zero after one evolution and for ever. -/
theorem evolved_succ_allOnes (n k : Nat) : evolved (k + 1) (BitVec.allOnes n) = 0#n := by
  rw [evolved, Function.iterate_succ_apply, evolveCells_allOnes]
  exact evolved_of_fixed (evolveCells_zero n) k

/-- Settles O29: zero and the alternating patterns are fixed points, and all ones become zero. -/
theorem degenerateSeedsGiveConstantStreams : Obligations.DegenerateSeedsGiveConstantStreams := by
  intro s k
  refine ⟨fun hzero => ?_, fun hones hc => ?_, fun odd hn halt => ?_⟩
  · rw [sample, hzero, evolved_of_fixed (evolveCells_zero _), BitVec.getLsbD_zero]
  · rw [sample, hones]
    cases k with
    | zero => simp [evolved, hc]
    | succ k => simp [evolved_succ_allOnes]
  · rw [sample, evolved_of_fixed (evolveCells_alternating hn halt)]

/-! ### Patterns away from the ends of the register -/

/-- The evolution of a pattern on a line without ends. -/
def evolveNat (x : Nat) : Nat := x <<< 1 ^^^ (x ||| x >>> 1)

theorem testBit_evolveNat (x i : Nat) :
    (evolveNat x).testBit i =
      ((decide (1 ≤ i) && x.testBit (i - 1)) ^^ (x.testBit i || x.testBit (i + 1))) := by
  rw [evolveNat, Nat.testBit_xor, Nat.testBit_or, Nat.testBit_shiftLeft, Nat.testBit_shiftRight, Nat.add_comm 1]

/-- All set bits lie in positions `lo..hi`. -/
def Within (lo hi x : Nat) : Prop := ∀ i, x.testBit i = true → lo ≤ i ∧ i ≤ hi

theorem Within.testBit_eq_false {lo hi x i : Nat} (h : Within lo hi x) (hout : i < lo ∨ hi < i) :
    x.testBit i = false := by
  by_contra hbit
  have := h i (Bool.eq_true_of_not_eq_false hbit)
  omega

/-- A pattern grows by at most one place a step at either end. -/
theorem Within.evolveNat {lo hi x : Nat} (h : Within (lo + 1) hi x) : Within lo (hi + 1) (evolveNat x) := by
  intro i hbit
  by_contra hout
  rw [testBit_evolveNat, h.testBit_eq_false (i := i - 1) (by omega), h.testBit_eq_false (i := i) (by omega),
    h.testBit_eq_false (i := i + 1) (by omega), Bool.and_false] at hbit
  cases hbit

/-- A register whose two end cells are clear evolves as its pattern does on the line. -/
theorem toNat_evolveCells {n hi : Nat} {s : BitVec n} (h : Within 1 hi s.toNat) (hn : hi + 1 < n) :
    (evolveCells s).toNat = evolveNat s.toNat := by
  refine Nat.eq_of_testBit_eq fun i => ?_
  rw [BitVec.testBit_toNat]
  obtain hlt | hge := Nat.lt_or_ge i n
  · have hleft : s.getLsbD ((i + n - 1) % n) = (decide (1 ≤ i) && s.toNat.testBit (i - 1)) := by
      rw [← BitVec.testBit_toNat]
      obtain rfl | hpos := Nat.eq_zero_or_pos i
      · rw [Nat.zero_add, Nat.mod_eq_of_lt (by omega), h.testBit_eq_false (.inr (by omega))]
        rfl
      · rw [show i + n - 1 = i - 1 + n by omega, Nat.add_mod_right, Nat.mod_eq_of_lt (by omega),
          decide_eq_true (show 1 ≤ i from hpos), Bool.true_and]
    have hright : s.getLsbD ((i + 1) % n) = s.toNat.testBit (i + 1) := by
      rw [← BitVec.testBit_toNat]
      obtain hlt' | rfl : i + 1 < n ∨ n = i + 1 := by omega
      · rw [Nat.mod_eq_of_lt hlt']
      · rw [Nat.mod_self, h.testBit_eq_false (.inl Nat.zero_lt_one), h.testBit_eq_false (.inr (by omega))]
    rw [getLsbD_evolveCells s hlt, cellRule, hleft, hright, testBit_evolveNat,
      ← BitVec.testBit_toNat s (i := i)]
  · rw [BitVec.getLsbD_of_ge _ i hge, h.evolveNat.testBit_eq_false (.inr (by omega))]

/-- As long as the pattern has reached neither end, the register's run is that of the pattern on the line. -/
theorem toNat_evolved {n lo hi k : Nat} {s : BitVec n} (h : Within lo hi s.toNat) (hlo : k ≤ lo) (hn : hi + k < n) :
    (evolved k s).toNat = evolveNat^[k] s.toNat ∧ Within (lo - k) (hi + k) (evolved k s).toNat := by
  induction k with
  | zero => exact ⟨rfl, h⟩
  | succ k ih =>
    obtain ⟨hrun, hwithin⟩ := ih (by omega) (by omega)
    rw [show lo - k = lo - (k + 1) + 1 by omega] at hwithin
    have hinside : Within 1 (hi + k) (evolved k s).toNat := fun i hbit => by
      have := hwithin i hbit
      omega
    rw [evolved_succ, toNat_evolveCells hinside (by omega), Function.iterate_succ_apply', ← hrun]
    exact ⟨rfl, hwithin.evolveNat⟩

/-- Settles O30: in either width the run is that of the pattern on the line. -/
theorem widthsAgreeUntilTheEdge : Obligations.WidthsAgreeUntilTheEdge := by
  intro x lo hi m n k hx hlohi hm hn hklo hkm hkn
  have hline {w : Nat} (hw : hi < w) (hkw : k ≤ w - 1 - hi) :
      (evolved k (BitVec.ofNat w x)).toNat = evolveNat^[k] x := by
    have hlt : x < 2 ^ w := Nat.lt_pow_two_of_testBit x fun i hi' =>
      Within.testBit_eq_false (lo := lo) (hi := hi) hx (.inr (by omega))
    have htoNat : (BitVec.ofNat w x).toNat = x := by rw [BitVec.toNat_ofNat, Nat.mod_eq_of_lt hlt]
    have hwithin : Within lo hi (BitVec.ofNat w x).toNat := by rwa [htoNat]
    rw [(toNat_evolved hwithin hklo (by omega)).1, htoNat]
  rw [hline hm hkm, hline hn hkn]

/-- Settles O31: both streams computed. -/
theorem debugStreamsPartAfter32 : Obligations.DebugStreamsPartAfter32 := by
  unfold Obligations.DebugStreamsPartAfter32
  decide

end Sys2Proof
end

section
/-! PROOFS. Sequences of commands: draws put together (spec/41_integer_composer.md section 3), the adapter's buffer fill
and the cloned register (spec/44_construction_and_observation.md sections 2 and 3), and two engines given one seed
(spec/10_state.md section 8). -/

namespace Sys2Proof

open Machine

/-! ### Draws put together -/

theorem evolved_add {n : Nat} (j k : Nat) (s : BitVec n) : evolved (j + k) s = evolved k (evolved j s) := by
  rw [evolved, evolved, evolved, Nat.add_comm, Function.iterate_add_apply]

theorem afterDraw_add (m n : Nat) (s : State) : afterDraw (m + n) s = afterDraw n (afterDraw m s) := by
  simp only [afterDraw_eq, evolved_add]

/-- A draw's bit `i` is sample `i`, and it has no bit from its length on. -/
theorem testBit_drawn (s : State) {k : Nat} (hk : k ≤ 64) (i : Nat) :
    (drawn k s).toNat.testBit i = (decide (i < k) && sample s i) :=
  (BitVec.testBit_toNat _).trans (composedFrom_drawn s hk i)

/-- After a draw of `m` bits the stream goes on at its sample `m` (R14, R64). -/
theorem sample_afterDraw (s : State) (m i : Nat) : sample (afterDraw m s) i = sample s (m + i) := by
  rw [afterDraw_eq, sample, sample, evolved_add]

/-- The second draw continues the number of the first above its last bit. -/
theorem toNat_drawn_add (s : State) {m n : Nat} (h : m + n ≤ 64) :
    (drawn (m + n) s).toNat = (drawn m s).toNat + 2 ^ m * (drawn n (afterDraw m s)).toNat := by
  have hm : m ≤ 64 := by omega
  have hn : n ≤ 64 := by omega
  refine Nat.eq_of_testBit_eq fun i => ?_
  rw [Nat.add_comm (drawn m s).toNat, Nat.testBit_two_pow_mul_add _ (composedFrom_drawn s hm).toNat_lt,
    testBit_drawn s h, testBit_drawn s hm, testBit_drawn _ hn, sample_afterDraw]
  split
  case isTrue hlow => simp [hlow, show i < m + n by omega]
  case isFalse hhigh =>
    rw [show m + (i - m) = i by omega]
    congr 2
    exact propext (by omega)

/-- Settles O37: the value bit by bit, and the register as so many evolutions on. -/
theorem concatenationLaw : Obligations.ConcatenationLaw :=
  fun s m n h => ⟨toNat_drawn_add s h, afterDraw_add m n s⟩

/-- Four draws of a byte, put together, are a draw of 32 bits. -/
theorem toNat_drawn_32 (s : State) :
    (drawn 32 s).toNat = (drawn 8 s).toNat + 2 ^ 8 * (drawn 8 (afterDraw 8 s)).toNat +
      2 ^ 16 * (drawn 8 (afterDraw 16 s)).toNat + 2 ^ 24 * (drawn 8 (afterDraw 24 s)).toNat := by
  rw [toNat_drawn_add s (m := 24) (n := 8) (by decide), toNat_drawn_add s (m := 16) (n := 8) (by decide),
    toNat_drawn_add s (m := 8) (n := 8) (by decide)]

/-! ### The buffer fill -/

/-- A constructed engine after one `SU8` (R66). -/
def afterByte (s : State) : State := respond .ok (drawn 8 s) (afterDraw 8 s)

theorem step_su8 {s : State} (hs : s.seeded = true) (rest : List HostEvent) :
    step (setPending s (present .su8 :: rest)) = .next (setPending (afterByte s) rest) := by
  have hs' : (setPending s rest).seeded = true := hs
  refine (step_of_present rfl (decodeEncodeRoundTrip .su8 rfl)).trans ?_
  exact congrArg Host.Outcome.next (whenSeeded_of_seeded hs')

/-- The machine after `k` `SU8` commands: byte `j` is drawn from the register `8 * j` evolutions on. -/
def afterBytes (k : Nat) (s : State) : State :=
  { s with
    state := evolved (8 * k) s.state
    responses := s.responses ++ (List.range k).map fun j => ⟨.ok, drawn 8 (afterDraw (8 * j) s)⟩ }

/-- The first byte, and then the others from the machine it leaves. -/
theorem afterBytes_succ (k : Nat) (s : State) : afterBytes (k + 1) s = afterBytes k (afterByte s) := by
  have hbyte (j : Nat) : drawn 8 (afterDraw (8 * (j + 1)) s) = drawn 8 (afterDraw (8 * j) (afterByte s)) := by
    rw [Nat.mul_succ, Nat.add_comm, afterDraw_add]
    rfl
  have hstate : evolved (8 * (k + 1)) s.state = evolved (8 * k) (afterByte s).state := by
    rw [Nat.mul_succ, Nat.add_comm, evolved_add]
    exact congrArg (evolved (8 * k)) (drawBits_snd s.cfg.c 8 s.state).symm
  rw [afterBytes, hstate, List.range_succ_eq_map, List.map_cons, List.map_map, List.append_cons]
  simp only [Function.comp_def, Nat.succ_eq_add_one, hbyte]
  rfl

/-- The adapter's buffer fill, of any length (R97). -/
theorem runSteps_fillBytes (k : Nat) {s : State} (hs : s.seeded = true) (rest : List HostEvent) :
    runSteps k (setPending s ((expand (.fillBytes k)).map present ++ rest)) =
      .next (setPending (afterBytes k s) rest) := by
  induction k generalizing s with
  | zero =>
    rw [runSteps_zero]
    simp [afterBytes, expand, evolved, setPending]
  | succ k ih =>
    have hcons : (expand (.fillBytes (k + 1))).map present = present .su8 :: (expand (.fillBytes k)).map present := by
      rw [expand, List.replicate_succ, List.map_cons, expand]
    have hs' : (afterByte s).seeded = true := hs
    rw [hcons, List.cons_append, runSteps_succ (step_su8 hs _), ih hs', afterBytes_succ]

/-- Settles O38: the run of four `SU8` commands, whose bytes make the draw of `SU32`. -/
theorem fillBytesSplitsAWord : Obligations.FillBytesSplitsAWord := by
  intro s rest hs
  refine ⟨evolved 32 s.state, drawn 8 s, drawn 8 (afterDraw 8 s), drawn 8 (afterDraw 16 s), drawn 8 (afterDraw 24 s),
    drawn 32 s, runSteps_fillBytes 4 hs rest, ?_, toNat_drawn_32 s⟩
  rw [exec_su32, whenSeeded_of_seeded hs, sampleAndRespond, afterDraw_eq]
  rfl

/-! ### Clone and restore -/

/-- Settles O49: the response carries the whole register, and the seed is not truncated. -/
theorem cloneRestoresTheRegister : Obligations.CloneRestoresTheRegister := by
  intro s u r w b p rs k hs hn hread hu
  cases hread.symm.trans (exec_rdstate_of_seeded hs)
  obtain rfl : stateResult s.state = r :=
    congrArg Response.result (List.singleton_inj.mp (List.append_cancel_left hu))
  rw [cloneCommand, exec_seed, seedValue_stateResult hn, construct_eq, hs]

/-! ### Equal seeds -/

/-- The same machine with another record of the past. -/
def setResponses (s : State) (rs : List Response) : State := { s with responses := rs }

/-- A command adds the same response to any record, and does the same otherwise. -/
theorem exec_setResponses (i : Instr) (s : State) :
    ∃ t l, ∀ rs, exec i (setResponses s rs) = .next (setResponses t (rs ++ l)) := by
  obtain ⟨v, b, r, -, hexec⟩ := responsesAreDetermined i s
  exact ⟨{ s with state := v, seeded := b }, [r], fun rs => hexec s.pending rs s.resets⟩

/-- A step adds the same responses to any record, and does the same otherwise (R129). -/
theorem step_setResponses (s : State) :
    ∃ t l, ∀ rs, step (setResponses s rs) = .next (setResponses t (rs ++ l)) := by
  obtain ⟨hp, -⟩ | ⟨rest, hp, -⟩ | ⟨c, rest, e, hp, hd, -⟩ | ⟨c, rest, i, hp, hd, -⟩ := step_cases s
  · exact ⟨s, [], fun rs => (List.append_nil rs).symm ▸ step_of_idle (s := setResponses s rs) hp⟩
  · exact ⟨takeReset (setPending s rest), [], fun rs =>
      (List.append_nil rs).symm ▸ step_of_reset (s := setResponses s rs) hp⟩
  · exact ⟨setPending s rest, [⟨.fault .illegalCommand, 0#64⟩], fun rs =>
      step_of_decode_error (s := setResponses s rs) hp hd⟩
  · obtain ⟨t, l, hexec⟩ := exec_setResponses i (setPending s rest)
    exact ⟨t, l, fun rs => (step_of_decode_ok (s := setResponses s rs) hp hd).trans (hexec rs)⟩

/-- A run adds the same responses to any record, and does the same otherwise (R129). -/
theorem runSteps_setResponses (k : Nat) (s : State) :
    ∃ t l, ∀ rs, runSteps k (setResponses s rs) = .next (setResponses t (rs ++ l)) := by
  induction k generalizing s with
  | zero => exact ⟨s, [], fun rs => (List.append_nil rs).symm ▸ runSteps_zero (setResponses s rs)⟩
  | succ k ih =>
    obtain ⟨s₁, l₁, hstep⟩ := step_setResponses s
    obtain ⟨t, l, hrun⟩ := ih s₁
    exact ⟨t, l₁ ++ l, fun rs => by rw [runSteps_succ (hstep rs), hrun, List.append_assoc]⟩

/-- Settles O53: after the first step the two engines are one but for their records, and so they stay. -/
theorem equalSeedsGiveEqualStreams : Obligations.EqualSeedsGiveEqualStreams := by
  intro s w b rs seed evs k
  have hseed : decode (encode (.seed seed)) = .ok (.seed seed) := decodeEncodeRoundTrip (.seed seed) rfl
  have hfirst (u : State) (hp : u.pending = present (.seed seed) :: evs) :
      step u = .next (construct (setPending u evs) (seedValue u.cfg.n seed)) :=
    (step_of_present hp hseed).trans (exec_seed seed _)
  obtain ⟨t, l, hrun⟩ := runSteps_setResponses k (construct (setPending s evs) (seedValue s.cfg.n seed))
  have hrest (rs : List Response) :
      runSteps k (setResponses (construct (setPending s evs) (seedValue s.cfg.n seed)) (rs ++ [⟨.ok, 0#64⟩])) =
        .next { t with responses := rs ++ ⟨.ok, 0#64⟩ :: l } := by
    rw [hrun, List.append_assoc]
    rfl
  exact ⟨t, ⟨.ok, 0#64⟩ :: l, (runSteps_succ (hfirst _ rfl) k).trans (hrest s.responses),
    (runSteps_succ (hfirst _ rfl) k).trans (hrest rs)⟩

end Sys2Proof
end

section
/-! PROOFS. What a model may rely on in the floats (spec/42_float_composer.md section 3): the conversion is the integer
rounding `RN_p`, so an answer is the rounded draw divided by `2^W`. -/

namespace Sys2Proof

open Machine

/-! ### The conversion as an integer rounding -/

/-- An integer of more than `p` bits is scaled by the bits it has too many. -/
theorem quotientExponent_integer {p y : Nat} (hy : 2 ^ p ≤ y) :
    quotientExponent p y 1 = ((y.log2 + 1 - p : Nat) : Int) := by
  have hpos : y ≠ 0 := Nat.ne_zero_of_lt (Nat.lt_of_lt_of_le (Nat.two_pow_pos p) hy)
  obtain ⟨d, hd⟩ := Nat.exists_eq_add_of_le ((Nat.le_log2 hpos).mpr hy)
  have hexp : (bitLength y : Int) - (bitLength 1 : Int) - (p : Int) = Int.ofNat d := by
    have hone : Nat.log2 1 = 0 := by decide
    simp only [bitLength, if_neg hpos, if_neg one_ne_zero, hone, hd, Int.ofNat_eq_natCast]
    omega
  have hwide : ¬ y / (1 * 2 ^ d) < 2 ^ p := by
    rw [Nat.one_mul, Nat.not_lt, Nat.le_div_iff_mul_le (Nat.two_pow_pos d), ← Nat.pow_add, ← hd]
    exact Nat.log2_self_le hpos
  simp only [quotientExponent, hexp, scaleQuotient, if_neg hwide, hd]
  rw [show p + d + 1 - p = d + 1 by omega]
  rfl

/-- The spec's `RN_p` rounds the scaled integer to even and scales it back (R78). -/
theorem roundInteger_of_le {p y : Nat} (hy : 2 ^ p ≤ y) :
    roundInteger p y = roundToEven y (2 ^ (y.log2 + 1 - p)) * 2 ^ (y.log2 + 1 - p) := by
  have hpos : y ≠ 0 := Nat.ne_zero_of_lt (Nat.lt_of_lt_of_le (Nat.two_pow_pos p) hy)
  have hlog := (Nat.le_log2 hpos).mpr hy
  obtain ⟨d, hd⟩ : ∃ d, y.log2 + 1 - p = d + 1 := ⟨y.log2 - p, by omega⟩
  have hdouble : 2 ^ (d + 1) = 2 * 2 ^ d := Nat.pow_succ'
  simp only [roundInteger, roundToEven, if_neg (Nat.not_lt.mpr hy), hd, Nat.add_sub_cancel]
  have hround : (2 ^ d < y % 2 ^ (d + 1) ∨ y % 2 ^ (d + 1) = 2 ^ d ∧ y / 2 ^ (d + 1) % 2 = 1) ↔
      2 ^ (d + 1) < 2 * (y % 2 ^ (d + 1)) ∨
        2 * (y % 2 ^ (d + 1)) = 2 ^ (d + 1) ∧ y / 2 ^ (d + 1) % 2 = 1 := by omega
  simp only [hround]
  by_cases habove : 2 ^ (d + 1) < 2 * (y % 2 ^ (d + 1))
  · simp [habove]
  · by_cases htie : 2 * (y % 2 ^ (d + 1)) = 2 ^ (d + 1)
    · by_cases hodd : y / 2 ^ (d + 1) % 2 = 1 <;> simp [htie, hodd]
    · simp [habove, htie]

/-- The conversion of an integer has the value `RN_p` gives (R75, R78). -/
theorem binFloatValue_convert {fmt : FloatFormat} (hp : 2 ≤ fmt.prec) (y : Nat) :
    binFloatValue (convert fmt y) = roundInteger fmt.prec y := by
  obtain hlt | hge := Nat.lt_or_ge y (2 ^ fmt.prec)
  · have hvalue : (y : ℚ) = binFloatValue ⟨y, 0⟩ := by simp [binFloatValue]
    have hnear := convert_isNearestEven hp y
    rw [hvalue] at hnear
    rw [hnear.value_of_exact hlt, ← hvalue, roundInteger, if_pos hlt]
  · have hpos : y ≠ 0 := Nat.ne_zero_of_lt (Nat.lt_of_lt_of_le (Nat.two_pow_pos _) hge)
    rw [convert, roundQuotient_eq _ hpos, binFloatValue_renormalise (by omega), quotientExponent_integer hge,
      roundInteger_of_le hge]
    simp [scaleQuotient, binFloatValue]

/-! ### The answers -/

section
variable {fmt : FloatFormat} {w : Nat} (h : DividesByPow fmt w)
include h

/-- The closed form (R78). -/
theorem DividesByPow.floatValue_eq_roundInteger (y : Nat) :
    floatValue fmt (unitBits fmt w y) = (roundInteger fmt.prec y : ℚ) / 2 ^ w := by
  rw [h.floatValue_unitBits, h.unitFloat_value, binFloatValue_convert h.two_le_prec]

theorem DividesByPow.floatValue_mono {y z : Nat} (hyz : y ≤ z) :
    floatValue fmt (unitBits fmt w y) ≤ floatValue fmt (unitBits fmt w z) := by
  rw [h.floatValue_unitBits, h.floatValue_unitBits]
  exact h.unitFloat_value_mono hyz

/-- No answer is below 0 or above the largest draw's, which is 1 (R79). -/
theorem DividesByPow.floatValue_mem_unit {y : Nat} (hy : y < 2 ^ w) :
    0 ≤ floatValue fmt (unitBits fmt w y) ∧ floatValue fmt (unitBits fmt w y) ≤ 1 := by
  constructor
  · rw [h.floatValue_unitBits]
    exact binFloatValue_nonneg _
  · calc floatValue fmt (unitBits fmt w y) ≤ floatValue fmt (unitBits fmt w (2 ^ w - 1)) :=
          h.floatValue_mono (Nat.le_sub_one_of_lt hy)
      _ = 1 := by rw [h.floatValue_unitBits, h.unitFloat_value, h.divisor, div_self (by positivity)]

/-- A draw of 1 or more is answered at least `2^-W` (R79). -/
theorem DividesByPow.floatValue_eq_zero {y : Nat} : floatValue fmt (unitBits fmt w y) = 0 ↔ y = 0 := by
  constructor
  · intro hzero
    by_contra hne
    have hone : (0 : ℚ) < floatValue fmt (unitBits fmt w 1) := by
      rw [h.floatValue_unitBits, h.unitFloat_value_one]
      positivity
    have hle := h.floatValue_mono (Nat.one_le_iff_ne_zero.mpr hne)
    linarith
  · rintro rfl
    rw [h.unitBits_zero, floatValue, if_pos rfl]

end

/-- Settles O42: the closed form in both formats. -/
theorem floatClosedForm : Obligations.FloatClosedForm := by
  refine ⟨fun y hy => ?_, fun y => ?_⟩
  · rw [toNat_floatResult32 hy]
    exact dividesByPow_binary32.floatValue_eq_roundInteger y.toNat
  · rw [toNat_floatResult64]
    exact dividesByPow_binary64.floatValue_eq_roundInteger y.toNat

/-- Settles O43: the bounds and the order from the draws 0, 1 and `2^W - 1`, the multiple of `2^-W` from the closed
form. -/
theorem floatsLieInTheClosedUnitInterval : Obligations.FloatsLieInTheClosedUnitInterval := by
  have hzero (y : Word64) : y.toNat = 0 ↔ y = 0#64 := BitVec.toNat_inj (y := 0#64)
  refine ⟨fun y hy => ?_, fun y => ?_⟩
  · have hform := dividesByPow_binary32
    obtain ⟨hlow, hhigh⟩ := hform.floatValue_mem_unit hy
    rw [toNat_floatResult32 hy]
    refine ⟨hlow, hhigh, hform.floatValue_eq_zero.trans (hzero y), ⟨_, hform.floatValue_eq_roundInteger y.toNat⟩,
      fun z hz hyz => ?_⟩
    rw [toNat_floatResult32 hz]
    exact hform.floatValue_mono hyz
  · have hform := dividesByPow_binary64
    obtain ⟨hlow, hhigh⟩ := hform.floatValue_mem_unit y.isLt
    rw [toNat_floatResult64]
    refine ⟨hlow, hhigh, hform.floatValue_eq_zero.trans (hzero y), ⟨_, hform.floatValue_eq_roundInteger y.toNat⟩,
      fun z hyz => ?_⟩
    rw [toNat_floatResult64]
    exact hform.floatValue_mono hyz

end Sys2Proof
end
